-- ==== Sys2Proof/Word.lean ====
section
/-! DEFINITION. The word types of the OTP core (00_scope.md R7): a byte has 8 bits, a register 32, a functor or bucket 64. -/

namespace Sys2Proof

/-- A byte of a buffer (R7). -/
abbrev Byte := BitVec 8

/-- A 32-bit register or command word (20_memory.md R61). -/
abbrev Word := BitVec 32

/-- A 64-bit value: FACTOR and BUCKET (10_state.md R28, R33). -/
abbrev DWord := BitVec 64

end Sys2Proof
end

