-- ==== Sys2Proof/Config.lean ====
section
/-! DEFINITION. The implementation parameters of 00_scope.md R6, each at the value this hardware takes, and the closed set of
hash algorithms. No value of the block is left open (93_implementation_defined.md), so there is no free value here. -/

namespace Sys2Proof

/-- The algorithm set, closed and all present (R6 `ALGS`, 90_conflicts.md C7). -/
inductive Alg
  | sha1
  | sha256
  | sha512
deriving DecidableEq, Repr

namespace Config

/-- `ID_VALUE` (10_state.md R21). -/
def idValue : Word := 0x4F545031

/-- `DIGITS_MIN` (R6). -/
abbrev digitsMin : Nat := 6

/-- `DIGITS_MAX` (R6). -/
abbrev digitsMax : Nat := 10

/-- `KEY_MAX`, the key buffer's bytes (R6, 10_state.md R30). -/
abbrev keyMax : Nat := 256

/-- `CHAL_MAX`, the challenge buffer's bytes (R6, 10_state.md R32). -/
abbrev chalMax : Nat := 64

/-- The digest buffer's bytes (10_state.md R35). -/
abbrev digestMax : Nat := 64

/-- The code string buffer's bytes (10_state.md R39). -/
abbrev codeStrMax : Nat := 12

/-- The register window's bytes (R6, 10_state.md R42). -/
abbrev windowBytes : Nat := 4096

/-- Reset value of PERIOD (10_state.md R24). -/
def resetPeriod : Word := 30

/-- Reset value of CFG.DIGITS (10_state.md R23). -/
def resetDigits : BitVec 4 := 6

end Config

end Sys2Proof
end

