-- ==== Sys2Proof/Syntax.lean ====
section
/-! DEFINITION. The instructions of the OTP core: the five commands of 30_encoding.md R91, one constructor per row of the
opcode table. A command has no operand field (R90); its operands are named registers (R94). -/

namespace Sys2Proof

/-- A command (00_scope.md R11: the block's analogue of an instruction). -/
inductive Instr
  /-- `GEN`: quantize, digest, truncate, format (43_codegen_quant_trunc.md R205). -/
  | gen
  /-- `HMAC`: the Digest Function alone (41_digest_hmac.md R148). -/
  | hmac
  /-- `TRUNC`: dynamic truncation of the digest in DIGEST (43_codegen_quant_trunc.md R204). -/
  | trunc
  /-- `QUANT`: the quantization step alone (43_codegen_quant_trunc.md R203). -/
  | quant
  /-- `CLR`: erase operands and results (40_command_protocol.md R120). -/
  | clr
deriving DecidableEq, Repr

end Sys2Proof
end

