-- ==== Sys2Proof/WellFormed.lean ====
section
/-! DEFINITION. What is well formed: a command word (30_encoding.md R92), a command (R90) and an access to the window
(20_memory.md R61, R68). -/

namespace Sys2Proof

/-- A legal command word: bits 31:4 zero and bits 3:0 one of 1 to 5 (30_encoding.md R92 says which words are illegal). -/
def wellFormedWord (v : Word) : Bool :=
  v.extractLsb' 4 28 == 0#28 && decide (1 ≤ (v.extractLsb' 0 4).toNat) && decide ((v.extractLsb' 0 4).toNat ≤ 5)

/-- A command carries no field but its opcode (R90), so each is well formed; its WORD is what can be ill formed. -/
def Instr.wellFormed : Instr → Bool
  | .gen => true
  | .hmac => true
  | .trunc => true
  | .quant => true
  | .clr => true

/-- A well-formed access has size 4 and an offset that is a multiple of 4 (20_memory.md R61). -/
def wellFormedAccess (off size : Nat) : Bool :=
  size == 4 && off % 4 == 0

/-- The access reaches the block: its offset is one of 0x000 to 0xFFF (20_memory.md R60, R68). -/
def inWindow (off : Nat) : Bool :=
  decide (off < Config.windowBytes)

end Sys2Proof
end

