-- ==== Sys2Proof/Decode.lean ====
section
/-! DEFINITION. The decoder and the encoder of command words (30_encoding.md R90 to R93). Decoding is total: every 32-bit
word is a command or is refused under a name. -/

namespace Sys2Proof

/-- Why a word is no command (30_encoding.md R92). -/
inductive DecodeError
  /-- Bits 31:4 are not all zero. -/
  | zeroFieldNotZero
  /-- Bits 31:4 are zero and the opcode is 0 or one of 6 to 15. -/
  | reservedOpcode (op : BitVec 4)
deriving DecidableEq, Repr

/-- The field `OPCODE`, bits 3:0 (R90). -/
def opcodeField (v : Word) : BitVec 4 := v.extractLsb' 0 4

/-- The field `ZERO`, bits 31:4 (R90). -/
def zeroField (v : Word) : BitVec 28 := v.extractLsb' 4 28

/-- The opcode map (R91); opcode 0 and opcodes 6 to 15 stand for no command (R92). -/
def decodeOpcode (op : BitVec 4) : Option Instr :=
  if op = 1 then some .gen
  else if op = 2 then some .hmac
  else if op = 3 then some .trunc
  else if op = 4 then some .quant
  else if op = 5 then some .clr
  else none

/-- Decodes a 32-bit command word, in every state the same way (R90 to R93). -/
def decodeWord (v : Word) : Except DecodeError Instr :=
  if zeroField v ≠ 0 then .error .zeroFieldNotZero
  else
    match decodeOpcode (opcodeField v) with
    | some i => .ok i
    | none => .error (.reservedOpcode (opcodeField v))

/-- The opcode of a command (R91), which is also what STATUS.LASTOP holds for it (R96). -/
def Instr.opcode : Instr → BitVec 4
  | .gen => 1
  | .hmac => 2
  | .trunc => 3
  | .quant => 4
  | .clr => 5

/-- The command word of a command: ZERO above OPCODE (R90). -/
def encode (i : Instr) : Word := 0#28 ++ i.opcode

/-- The command in a word numbered as the opcode table numbers it. The one length is 32 bits (R90, R93): a longer word, or
one with bits above nbits, is no command, and the bits above a shorter nbits are zero (log entry 8). -/
def decodeTableWord (nbits w : Nat) : Option Instr :=
  if nbits ≤ 32 ∧ w < 2 ^ nbits then (decodeWord (BitVec.ofNat 32 w)).toOption else none

end Sys2Proof
end

