-- ==== Sys2Proof/Machine/State.lean ====
section
/-! DEFINITION. The state of the OTP core as plain data: everything 10_state.md R40 lists, and the model's own `pending` and
`resp`. Also the register map's names, the host's accesses, and the reasons a step can stop. -/

namespace Sys2Proof.Machine

/-- A byte buffer of the block: the non-zero bytes with their indexes, indexes strictly rising. An index that is not listed
holds 0x00, which is every byte's reset value (10_state.md R45). -/
abbrev Memory := List Host.Cell

/-- The faults a command can record in STATUS.ERRCODE (60_exceptions.md R260). These are the block's own faults, states the
machine goes on from; a machine that stops is `Fault`. -/
inductive FaultCode
  | invalidSecret
  | algorithmUnavailable
  | emptyDigest
  | digitsRange
  | periodZero
  | digestLength
deriving DecidableEq, Repr

/-- Why a command write was rejected (10_state.md R26 `REJCAUSE`). -/
inductive RejectCause
  | busy
  | faultPending
  | illegalWord
deriving DecidableEq, Repr

/-- The kind of a host access (20_memory.md R60). -/
inductive AccessKind
  | read
  | write
deriving DecidableEq, Repr

/-- One access of the host to the register window: kind, byte offset, size in bytes, data of a write (20_memory.md R60). -/
structure Access where
  kind : AccessKind
  off : Nat
  size : Nat
  wdata : Word
deriving DecidableEq, Repr

/-- What the port answers to an access (20_memory.md R60): `ok` with the data of a read, `ok` of a write, or `error`, which
carries no data (93_implementation_defined.md I33). -/
inductive Response
  | okRead (v : Word)
  | okWrite
  | error
deriving DecidableEq, Repr

/-- One step in the total order of steps on the block (20_memory.md R73). -/
inductive Event
  /-- The host makes an access. -/
  | host (a : Access)
  /-- The engine has its turn (40_command_protocol.md R116). -/
  | engine
  /-- Reset is asserted and released (70_reset_and_hazards.md R300). -/
  | reset
deriving DecidableEq, Repr

/-- The registers and buffer words of the window, by name (20_memory.md R66). A buffer word carries its word index. -/
inductive Reg
  | id
  | cfg
  | period
  | cmd
  | status
  | ien
  | factorLo
  | factorHi
  | keylen
  | challen
  | bucketLo
  | bucketHi
  | dlen
  | truncOffset
  | truncValue
  | codeInt
  | codeStr (w : Nat)
  | digest (w : Nat)
  | chal (w : Nat)
  | key (w : Nat)
  | reserved
deriving DecidableEq, Repr

/-- The state of the OTP core (10_state.md R40), then the model's own two fields. -/
structure State where
  /-- CFG.ALG (R23). -/
  alg : BitVec 2
  /-- CFG.MODE: 0 TOTP, 1 HOTP (R23). -/
  mode : BitVec 1
  /-- CFG.DIGITS (R23). -/
  digits : BitVec 4
  /-- PERIOD (R24). -/
  period : Word
  /-- STATUS.BUSY: a command is in progress (R26). -/
  busy : Bool
  /-- STATUS.DONE: the last command completed without fault (R26). -/
  done : Bool
  /-- STATUS.ERR: the last command faulted (R26). -/
  err : Bool
  /-- STATUS.REJ: a command write was rejected (R26). -/
  rej : Bool
  /-- STATUS.WRIGN: a write to a locked register was ignored (R26). -/
  wrign : Bool
  /-- STATUS.ERRCODE (R26). -/
  errcode : BitVec 4
  /-- STATUS.LASTOP: the opcode of the last accepted command (R26). -/
  lastop : BitVec 4
  /-- STATUS.REJCAUSE (R26). -/
  rejcause : BitVec 2
  /-- IEN.DONE_IE (R27). -/
  doneIe : Bool
  /-- IEN.ERR_IE (R27). -/
  errIe : Bool
  /-- FACTOR, the functor (R28). -/
  factor : DWord
  /-- KEYLEN (R29). -/
  keylen : BitVec 16
  /-- CHALLEN (R31). -/
  challen : BitVec 16
  /-- BUCKET, the effective factor (R33). -/
  bucket : DWord
  /-- DLEN (R34). -/
  dlen : BitVec 7
  /-- TRUNC_OFFSET (R36). -/
  truncOffset : BitVec 4
  /-- TRUNC_VALUE (R37). -/
  truncValue : BitVec 31
  /-- CODE_INT (R38). -/
  codeInt : Word
  /-- CODE_STR, 12 bytes (R39). -/
  codeStr : Memory
  /-- DIGEST, 64 bytes (R35). -/
  digest : Memory
  /-- CHAL, 64 bytes (R32). -/
  chal : Memory
  /-- KEY, 256 bytes (R30). -/
  key : Memory
  /-- DESIGN CHOICE (log entry 1), the model's own: what happens next on the block, oldest first. -/
  pending : List Event
  /-- DESIGN CHOICE (log entry 2), the model's own: what the port answered to the last access. -/
  resp : Option Response
deriving DecidableEq, Repr

/-- The state right after reset (10_state.md R45, 70_reset_and_hazards.md R300): CFG = 0x00000600, PERIOD = 30, all else 0.
Nothing is pending and the port has answered nothing (log entries 1 and 2). -/
def State.reset : State where
  alg := 0
  mode := 0
  digits := Config.resetDigits
  period := Config.resetPeriod
  busy := false
  done := false
  err := false
  rej := false
  wrign := false
  errcode := 0
  lastop := 0
  rejcause := 0
  doneIe := false
  errIe := false
  factor := 0
  keylen := 0
  challen := 0
  bucket := 0
  dlen := 0
  truncOffset := 0
  truncValue := 0
  codeInt := 0
  codeStr := []
  digest := []
  chal := []
  key := []
  pending := []
  resp := none

/-- Why the machine stops with a fault. -/
inductive Fault
  /-- Raised by the engine's turn alone: BUSY = 1 while LASTOP is the opcode of no command. No rule produces such a state
  (10_state.md R47 (d), 93_implementation_defined.md I29) and none says what happens in it. SAFE: the machine stops where the
  block cannot be. -/
  | lastopNotACommand
deriving DecidableEq, Repr

/-- Why the machine refuses to go on. -/
inductive Refusal
  /-- Raised by a refused arm of exec alone: an instruction without a meaning. No arm is refused in this model. SAFE. -/
  | notModelled (mnemonic : String)
  /-- Raised by a host access with an offset outside 0x000 to 0xFFF: it "does not reach the block at all" (20_memory.md R68)
  and a model must refuse it (93_implementation_defined.md I25). SAFE. -/
  | outsideWindow
deriving DecidableEq, Repr

end Sys2Proof.Machine
end

