-- ==== Sys2Proof/Machine/Ops.lean ====
section
/-! DEFINITION. The shared operations: byte order, byte buffers, rejection and acceptance of a command, taking a fault and
leaving one, and the completion step every command shares. -/

namespace Sys2Proof.Machine

/-! ### Byte order (00_scope.md R7, 20_memory.md R71) -/

/-- `be(s)`: the byte at the lowest index is the most significant (R7). -/
def be (bs : List Byte) : Nat := bs.foldl (fun acc b => acc * 256 + b.toNat) 0

/-- `ser_n(v)`: the `n` bytes with `be (ser n v) = v mod 256^n` (R7). -/
def ser : Nat → Nat → List Byte
  | 0, _ => []
  | n + 1, v => BitVec.ofNat 8 (v / 256 ^ n) :: ser n v

/-- `zeros(n)` (R7). -/
def zeros (n : Nat) : List Byte := List.replicate n 0

/-! ### Byte buffers (20_memory.md R64, R77) -/

/-- The byte at an index of a buffer; an index that is not listed holds 0x00. -/
def Memory.read : Memory → Nat → Byte
  | [], _ => 0
  | (a, b) :: m, i => if i = a then b else if i < a then 0 else Memory.read m i

/-- Writes one byte, keeping the canonical form: writing 0x00 unlists the index. -/
def Memory.write : Memory → Nat → Byte → Memory
  | [], i, v => if v = 0 then [] else [(i, v)]
  | (a, b) :: m, i, v =>
    if i < a then (if v = 0 then (a, b) :: m else (i, v) :: (a, b) :: m)
    else if i = a then (if v = 0 then m else (i, v) :: m)
    else (a, b) :: Memory.write m i v

/-- `BUF[start .. start + n)` (00_scope.md R9). -/
def Memory.readBytes (m : Memory) : Nat → Nat → List Byte
  | _, 0 => []
  | start, n + 1 => m.read start :: m.readBytes (start + 1) n

/-- `BUF[start .. start + len) <- bs` (00_scope.md R9). -/
def Memory.writeBytes (m : Memory) : Nat → List Byte → Memory
  | _, [] => m
  | start, b :: bs => Memory.writeBytes (m.write start b) (start + 1) bs

/-- Indexes strictly rising from `lo`, all below `hi`, and no byte listed as 0x00. -/
def Memory.wfFrom (lo hi : Nat) : Memory → Bool
  | [] => true
  | (a, b) :: m => decide (lo ≤ a) && decide (a < hi) && b != 0 && Memory.wfFrom (a + 1) hi m

/-- The canonical form of a buffer of `size` bytes: equal buffers are equal lists. -/
def Memory.wf (size : Nat) (m : Memory) : Bool := m.wfFrom 0 size

/-- Word `w` of a buffer as the host sees it: big-endian within the word (R64). -/
def Memory.readWord (m : Memory) (w : Nat) : Word := BitVec.ofNat 32 (be (m.readBytes (4 * w) 4))

/-- The host's write of word `w` of a buffer (R64). -/
def Memory.writeWord (m : Memory) (w : Nat) (v : Word) : Memory := m.writeBytes (4 * w) (ser 4 v.toNat)

/-! ### Codes (30_encoding.md R96) -/

/-- The code STATUS.ERRCODE holds for a fault (60_exceptions.md R260). -/
def FaultCode.code : FaultCode → BitVec 4
  | .invalidSecret => 1
  | .algorithmUnavailable => 2
  | .emptyDigest => 3
  | .digitsRange => 4
  | .periodZero => 5
  | .digestLength => 6

/-- The code STATUS.REJCAUSE holds for a rejection (10_state.md R26). -/
def RejectCause.code : RejectCause → BitVec 2
  | .busy => 1
  | .faultPending => 2
  | .illegalWord => 3

/-! ### Rejection and acceptance of a command (40_command_protocol.md R111 to R115) -/

/-- A rejected command write: REJ and REJCAUSE, nothing else (R111 to R113). -/
def State.reject (s : State) (c : RejectCause) : State := { s with rej := true, rejcause := c.code }

/-- A write to a locked register while busy: WRIGN, nothing else (70_reset_and_hazards.md R310). -/
def State.ignoreWrite (s : State) : State := { s with wrign := true }

/-- The four truncation outputs cleared (R115, `TRUNC`). -/
def State.clearTruncOutputs (s : State) : State :=
  { s with truncOffset := 0, truncValue := 0, codeInt := 0, codeStr := [] }

/-- The whole output chain cleared (R115, the other commands). -/
def State.clearOutputs (s : State) : State :=
  { s.clearTruncOutputs with bucket := 0, dlen := 0, digest := [] }

/-- The outputs the acceptance of a command clears: DLEN and DIGEST are TRUNC's operands and stay (R115). -/
def State.clearOutputsOf (s : State) : Instr → State
  | .gen => s.clearOutputs
  | .hmac => s.clearOutputs
  | .trunc => s.clearTruncOutputs
  | .quant => s.clearOutputs
  | .clr => s.clearOutputs

/-- BUSY <- 1, DONE <- 0, LASTOP <- op (R114). -/
def State.startCommand (s : State) (i : Instr) : State :=
  { s with busy := true, done := false, lastop := i.opcode }

/-- Acceptance of a command (R114). -/
def State.accept (s : State) (i : Instr) : State := (s.startCommand i).clearOutputsOf i

/-- What a command write decides, in the order busy, illegal, fault pending, accept (R111 to R114). -/
def cmdWrite (s : State) (v : Word) : State :=
  if s.busy then s.reject .busy
  else
    match decodeWord v with
    | .error _ => s.reject .illegalWord
    | .ok i => if s.err = true ∧ i ≠ .clr then s.reject .faultPending else s.accept i

/-! ### Completion, taking a fault, leaving a fault (40_command_protocol.md R116, 60_exceptions.md R262, R271) -/

/-- Fault entry: BUSY <- 0, ERR <- 1, ERRCODE <- code, nothing else. Nothing is saved and control goes nowhere (R262). -/
def State.raiseFault (s : State) (f : FaultCode) : State :=
  { s with busy := false, err := true, errcode := f.code }

/-- Leaving a fault: ERR <- 0, ERRCODE <- 0. Nothing is restored, because fault entry saved nothing (R271). -/
def State.ackErr (s : State) : State := { s with err := false, errcode := 0 }

/-- The end of a successful completion: BUSY <- 0, DONE <- 1 (R116). -/
def State.finishOk (s : State) : State := { s with busy := false, done := true }

/-- What a completion leaves: `ok(writes)` is the state with the writes applied, `fault(code)` records the fault (R116). -/
def State.completed (s : State) : Except FaultCode State → State
  | .ok w => w.finishOk
  | .error f => s.raiseFault f

/-- The completion step of R116 on what `Exec` yields: it always goes on. -/
def complete (s : State) (r : Except FaultCode State) : Host.Outcome State Fault Refusal := .next (s.completed r)

end Sys2Proof.Machine
end

