-- ==== Sys2Proof/Machine/Operands.lean ====
section
/-! DEFINITION. The operands of the commands as 30_encoding.md R94 assembles them from the registers, the algorithm table of
R95, and the operand conditions under which a command faults (60_exceptions.md R265 to R268). -/

namespace Sys2Proof

/-- The algorithm CFG.ALG selects; the code 3 selects none (30_encoding.md R95, 60_exceptions.md R266). -/
def Alg.ofCode (c : BitVec 2) : Option Alg :=
  if c = 0 then some .sha1 else if c = 1 then some .sha256 else if c = 2 then some .sha512 else none

/-- `B`, the block size in bytes (R95). -/
def Alg.blockBytes : Alg → Nat
  | .sha1 => 64
  | .sha256 => 64
  | .sha512 => 128

/-- `L`, the digest length in bytes (R95). -/
def Alg.digestBytes : Alg → Nat
  | .sha1 => 20
  | .sha256 => 32
  | .sha512 => 64

/-- `LF`, the length field in bytes (R95). -/
def Alg.lengthBytes : Alg → Nat
  | .sha1 => 8
  | .sha256 => 8
  | .sha512 => 16

end Sys2Proof

namespace Sys2Proof.Machine

/-- The key, `KEY[0..KEYLEN)` (R94, 41_digest_hmac.md R142). -/
def State.keyBytes (s : State) : List Byte := s.key.readBytes 0 s.keylen.toNat

/-- The digest handed to TRUNC, `DIGEST[0..DLEN)` (R94). -/
def State.digestBytes (s : State) : List Byte := s.digest.readBytes 0 s.dlen.toNat

/-- The digit count, unsigned (R94). -/
def State.digitCount (s : State) : Nat := s.digits.toNat

/-- The condition of DigitsRange (60_exceptions.md R267). -/
def State.digitsIllegal (s : State) : Bool :=
  decide (s.digitCount < Config.digitsMin) || decide (Config.digitsMax < s.digitCount)

/-- The condition of PeriodZero: TOTP mode with a period of 0 (60_exceptions.md R268). -/
def State.periodIllegal (s : State) : Bool := s.mode == 0 && s.period == 0

/-- The condition of InvalidSecret: KEYLEN above KEY_MAX (60_exceptions.md R265). -/
def State.keyTooLong (s : State) : Bool := decide (Config.keyMax < s.keylen.toNat)

end Sys2Proof.Machine
end

