-- ==== Sys2Proof/Machine/Flags.lean ====
section
/-! DEFINITION. The status flags: the STATUS word, its write-one-to-clear write, and the interrupt output (10_state.md R26,
R41, 60_exceptions.md R272). The block has no arithmetic flag (R41). -/

namespace Sys2Proof.Machine

/-- STATUS as the host reads it, reserved bits 0 (10_state.md R26). -/
def State.statusWord (s : State) : Word :=
  0#14 ++ s.rejcause ++ s.lastop ++ s.errcode ++ 0#3 ++ BitVec.ofBool s.wrign ++ BitVec.ofBool s.rej ++
    BitVec.ofBool s.err ++ BitVec.ofBool s.done ++ BitVec.ofBool s.busy

/-- Bit 1 of a STATUS write: DONE <- 0. -/
def State.ackDone (s : State) : State := { s with done := false }

/-- Bit 3 of a STATUS write: REJ <- 0 and REJCAUSE <- 0. -/
def State.ackRej (s : State) : State := { s with rej := false, rejcause := 0 }

/-- Bit 4 of a STATUS write: WRIGN <- 0. -/
def State.ackWrign (s : State) : State := { s with wrign := false }

/-- The host's write of STATUS, write one to clear; every other bit is ignored (10_state.md R26). -/
def statusWrite (s : State) (v : Word) : State :=
  let s1 := if v.getLsbD 1 then s.ackDone else s
  let s2 := if v.getLsbD 2 then s1.ackErr else s1
  let s3 := if v.getLsbD 3 then s2.ackRej else s2
  if v.getLsbD 4 then s3.ackWrign else s3

/-- The interrupt output, level sensitive and a pure function of state (60_exceptions.md R272). -/
def State.irq (s : State) : Bool := (s.done && s.doneIe) || (s.err && s.errIe)

end Sys2Proof.Machine
end

