-- ==== Sys2Proof/Machine/Sha.lean ====
section
/-! DEFINITION. The hash primitives SHA-1, SHA-256 and SHA-512 (42_sha_primitives.md R160 to R179), which the spec supplies
from general knowledge (log entry 7). Used by the HMAC and by nothing else. -/

namespace Sys2Proof.Machine

/-! ### The common frame (R160 to R163) -/

/-- ROTL of a `w`-bit word by `n`, 0 < n < w (00_scope.md R8). -/
def rotl {w : Nat} (x : BitVec w) (n : Nat) : BitVec w := (x <<< n) ||| (x >>> (w - n))

/-- ROTR of a `w`-bit word by `n`, 0 < n < w (00_scope.md R8). -/
def rotr {w : Nat} (x : BitVec w) (n : Nat) : BitVec w := (x >>> n) ||| (x <<< (w - n))

/-- The number of zero bytes of the padding (R162). -/
def padZeros (B LF n : Nat) : Nat := (B - (n + 1 + LF) % B) % B

/-- `pad(m)`: 0x80, zeros, the length in bits as an LF-byte big-endian number (R162). -/
def padMessage (A : Alg) (m : List Byte) : List Byte :=
  m ++ [0x80] ++ zeros (padZeros A.blockBytes A.lengthBytes m.length) ++ ser A.lengthBytes (8 * m.length)

/-- The first `n` blocks of `B` bytes (R160, stage 3). -/
def blocksOf (B : Nat) : Nat → List Byte → List (List Byte)
  | 0, _ => []
  | n + 1, bs => bs.take B :: blocksOf B n (bs.drop B)

/-- The blocks of the padded message (R160, R162). -/
def paddedBlocks (A : Alg) (m : List Byte) : List (List Byte) :=
  blocksOf A.blockBytes ((padMessage A m).length / A.blockBytes) (padMessage A m)

/-- The first `n` words of a block, `w` bits each, big-endian (R161). -/
def wordsOf (w : Nat) : Nat → List Byte → List (BitVec w)
  | 0, _ => []
  | n + 1, bs => BitVec.ofNat w (be (bs.take (w / 8))) :: wordsOf w n (bs.drop (w / 8))

/-- A word emitted big-endian (R163). -/
def serWord {w : Nat} (x : BitVec w) : List Byte := ser (w / 8) x.toNat

/-- `Ch` (R170, R175). -/
def choose {w : Nat} (x y z : BitVec w) : BitVec w := (x &&& y) ^^^ (~~~x &&& z)

/-- `Maj` (R170, R175). -/
def majority {w : Nat} (x y z : BitVec w) : BitVec w := (x &&& y) ^^^ (x &&& z) ^^^ (y &&& z)

/-! ### SHA-1 (R164 to R167) -/

/-- The chaining variables of SHA-1. -/
structure Sha1Chain where
  a : Word
  b : Word
  c : Word
  d : Word
  e : Word
deriving DecidableEq, Repr

/-- The initial value (R164). -/
def sha1Init : Sha1Chain := ⟨0x67452301, 0xEFCDAB89, 0x98BADCFE, 0x10325476, 0xC3D2E1F0⟩

/-- `f_t` (R165). -/
def sha1F (t : Nat) (b c d : Word) : Word :=
  if t < 20 then (b &&& c) ||| (~~~b &&& d)
  else if t < 40 then b ^^^ c ^^^ d
  else if t < 60 then (b &&& c) ||| (b &&& d) ||| (c &&& d)
  else b ^^^ c ^^^ d

/-- `K_t` (R165). -/
def sha1K (t : Nat) : Word :=
  if t < 20 then 0x5A827999
  else if t < 40 then 0x6ED9EBA1
  else if t < 60 then 0x8F1BBCDC
  else 0xCA62C1D6

/-- Adds `n` words to a message schedule held newest word first (R166). -/
def sha1Extend : Nat → List Word → List Word
  | 0, ws => ws
  | n + 1, ws =>
    sha1Extend n (rotl (ws.getD 2 0 ^^^ ws.getD 7 0 ^^^ ws.getD 13 0 ^^^ ws.getD 15 0) 1 :: ws)

/-- The message schedule `W[0] .. W[79]` of a block (R166). -/
def sha1Schedule (block : List Byte) : List Word := (sha1Extend 64 (wordsOf 32 16 block).reverse).reverse

/-- One round (R167). -/
def sha1Round (h : Sha1Chain) (t : Nat) (wt : Word) : Sha1Chain :=
  ⟨rotl h.a 5 + sha1F t h.b h.c h.d + h.e + sha1K t + wt, h.a, rotl h.b 30, h.c, h.d⟩

/-- The rounds from round `t` on, one per word of the schedule (R167). -/
def sha1Rounds : Nat → List Word → Sha1Chain → Sha1Chain
  | _, [], h => h
  | t, wt :: ws, h => sha1Rounds (t + 1) ws (sha1Round h t wt)

/-- `Compress(SHA1, H, block)` (R167). -/
def sha1Compress (h : Sha1Chain) (block : List Byte) : Sha1Chain :=
  let r := sha1Rounds 0 (sha1Schedule block) h
  ⟨h.a + r.a, h.b + r.b, h.c + r.c, h.d + r.d, h.e + r.e⟩

/-- The digest of SHA-1 (R160, R163). -/
def sha1 (m : List Byte) : List Byte :=
  let h := (paddedBlocks .sha1 m).foldl sha1Compress sha1Init
  serWord h.a ++ serWord h.b ++ serWord h.c ++ serWord h.d ++ serWord h.e

/-! ### SHA-256 and SHA-512 share one shape (R172, R176) -/

/-- The chaining variables of SHA-256 (w = 32) and SHA-512 (w = 64). -/
structure Sha2Chain (w : Nat) where
  a : BitVec w
  b : BitVec w
  c : BitVec w
  d : BitVec w
  e : BitVec w
  f : BitVec w
  g : BitVec w
  h : BitVec w
deriving DecidableEq, Repr

/-- What tells SHA-256 and SHA-512 apart beside the algorithm table: round constants and functions, initial value. -/
structure Sha2Params (w : Nat) where
  constants : List (BitVec w)
  bsig0 : BitVec w → BitVec w
  bsig1 : BitVec w → BitVec w
  ssig0 : BitVec w → BitVec w
  ssig1 : BitVec w → BitVec w
  init : Sha2Chain w

/-- Adds `n` words to a message schedule held newest word first (R171, R176). -/
def sha2Extend {w : Nat} (p : Sha2Params w) : Nat → List (BitVec w) → List (BitVec w)
  | 0, ws => ws
  | n + 1, ws =>
    sha2Extend p n ((p.ssig1 (ws.getD 1 0) + ws.getD 6 0 + p.ssig0 (ws.getD 14 0) + ws.getD 15 0) :: ws)

/-- The message schedule of a block, one word per round (R171, R176). -/
def sha2Schedule {w : Nat} (p : Sha2Params w) (block : List Byte) : List (BitVec w) :=
  (sha2Extend p (p.constants.length - 16) (wordsOf w 16 block).reverse).reverse

/-- One round (R172, R176). -/
def sha2Round {w : Nat} (p : Sha2Params w) (s : Sha2Chain w) (kt wt : BitVec w) : Sha2Chain w :=
  let t1 := s.h + p.bsig1 s.e + choose s.e s.f s.g + kt + wt
  let t2 := p.bsig0 s.a + majority s.a s.b s.c
  ⟨t1 + t2, s.a, s.b, s.c, s.d + t1, s.e, s.f, s.g⟩

/-- The rounds, one per constant and schedule word (R172, R176). -/
def sha2Rounds {w : Nat} (p : Sha2Params w) : List (BitVec w) → List (BitVec w) → Sha2Chain w → Sha2Chain w
  | kt :: ks, wt :: ws, s => sha2Rounds p ks ws (sha2Round p s kt wt)
  | _, _, s => s

/-- `Compress` (R172, R176). -/
def sha2Compress {w : Nat} (p : Sha2Params w) (s : Sha2Chain w) (block : List Byte) : Sha2Chain w :=
  let r := sha2Rounds p p.constants (sha2Schedule p block) s
  ⟨s.a + r.a, s.b + r.b, s.c + r.c, s.d + r.d, s.e + r.e, s.f + r.f, s.g + r.g, s.h + r.h⟩

/-- The digest (R160, R163). -/
def sha2 {w : Nat} (A : Alg) (p : Sha2Params w) (m : List Byte) : List Byte :=
  let s := (paddedBlocks A m).foldl (sha2Compress p) p.init
  serWord s.a ++ serWord s.b ++ serWord s.c ++ serWord s.d ++ serWord s.e ++ serWord s.f ++ serWord s.g ++ serWord s.h

/-- The round constants of SHA-256 (R169). -/
def sha256K : List (BitVec 32) :=
  [0x428a2f98, 0x71374491, 0xb5c0fbcf, 0xe9b5dba5, 0x3956c25b, 0x59f111f1, 0x923f82a4, 0xab1c5ed5] ++
  [0xd807aa98, 0x12835b01, 0x243185be, 0x550c7dc3, 0x72be5d74, 0x80deb1fe, 0x9bdc06a7, 0xc19bf174] ++
  [0xe49b69c1, 0xefbe4786, 0x0fc19dc6, 0x240ca1cc, 0x2de92c6f, 0x4a7484aa, 0x5cb0a9dc, 0x76f988da] ++
  [0x983e5152, 0xa831c66d, 0xb00327c8, 0xbf597fc7, 0xc6e00bf3, 0xd5a79147, 0x06ca6351, 0x14292967] ++
  [0x27b70a85, 0x2e1b2138, 0x4d2c6dfc, 0x53380d13, 0x650a7354, 0x766a0abb, 0x81c2c92e, 0x92722c85] ++
  [0xa2bfe8a1, 0xa81a664b, 0xc24b8b70, 0xc76c51a3, 0xd192e819, 0xd6990624, 0xf40e3585, 0x106aa070] ++
  [0x19a4c116, 0x1e376c08, 0x2748774c, 0x34b0bcb5, 0x391c0cb3, 0x4ed8aa4a, 0x5b9cca4f, 0x682e6ff3] ++
  [0x748f82ee, 0x78a5636f, 0x84c87814, 0x8cc70208, 0x90befffa, 0xa4506ceb, 0xbef9a3f7, 0xc67178f2]

/-- SHA-256: functions of R170, initial value of R168. -/
def sha256Params : Sha2Params 32 where
  constants := sha256K
  bsig0 x := rotr x 2 ^^^ rotr x 13 ^^^ rotr x 22
  bsig1 x := rotr x 6 ^^^ rotr x 11 ^^^ rotr x 25
  ssig0 x := rotr x 7 ^^^ rotr x 18 ^^^ (x >>> 3)
  ssig1 x := rotr x 17 ^^^ rotr x 19 ^^^ (x >>> 10)
  init := ⟨0x6A09E667, 0xBB67AE85, 0x3C6EF372, 0xA54FF53A,
    0x510E527F, 0x9B05688C, 0x1F83D9AB, 0x5BE0CD19⟩

/-- The round constants of SHA-512 (R174). -/
def sha512K : List (BitVec 64) :=
  [0x428a2f98d728ae22, 0x7137449123ef65cd, 0xb5c0fbcfec4d3b2f, 0xe9b5dba58189dbbc] ++
  [0x3956c25bf348b538, 0x59f111f1b605d019, 0x923f82a4af194f9b, 0xab1c5ed5da6d8118] ++
  [0xd807aa98a3030242, 0x12835b0145706fbe, 0x243185be4ee4b28c, 0x550c7dc3d5ffb4e2] ++
  [0x72be5d74f27b896f, 0x80deb1fe3b1696b1, 0x9bdc06a725c71235, 0xc19bf174cf692694] ++
  [0xe49b69c19ef14ad2, 0xefbe4786384f25e3, 0x0fc19dc68b8cd5b5, 0x240ca1cc77ac9c65] ++
  [0x2de92c6f592b0275, 0x4a7484aa6ea6e483, 0x5cb0a9dcbd41fbd4, 0x76f988da831153b5] ++
  [0x983e5152ee66dfab, 0xa831c66d2db43210, 0xb00327c898fb213f, 0xbf597fc7beef0ee4] ++
  [0xc6e00bf33da88fc2, 0xd5a79147930aa725, 0x06ca6351e003826f, 0x142929670a0e6e70] ++
  [0x27b70a8546d22ffc, 0x2e1b21385c26c926, 0x4d2c6dfc5ac42aed, 0x53380d139d95b3df] ++
  [0x650a73548baf63de, 0x766a0abb3c77b2a8, 0x81c2c92e47edaee6, 0x92722c851482353b] ++
  [0xa2bfe8a14cf10364, 0xa81a664bbc423001, 0xc24b8b70d0f89791, 0xc76c51a30654be30] ++
  [0xd192e819d6ef5218, 0xd69906245565a910, 0xf40e35855771202a, 0x106aa07032bbd1b8] ++
  [0x19a4c116b8d2d0c8, 0x1e376c085141ab53, 0x2748774cdf8eeb99, 0x34b0bcb5e19b48a8] ++
  [0x391c0cb3c5c95a63, 0x4ed8aa4ae3418acb, 0x5b9cca4f7763e373, 0x682e6ff3d6b2b8a3] ++
  [0x748f82ee5defb2fc, 0x78a5636f43172f60, 0x84c87814a1f0ab72, 0x8cc702081a6439ec] ++
  [0x90befffa23631e28, 0xa4506cebde82bde9, 0xbef9a3f7b2c67915, 0xc67178f2e372532b] ++
  [0xca273eceea26619c, 0xd186b8c721c0c207, 0xeada7dd6cde0eb1e, 0xf57d4f7fee6ed178] ++
  [0x06f067aa72176fba, 0x0a637dc5a2c898a6, 0x113f9804bef90dae, 0x1b710b35131c471b] ++
  [0x28db77f523047d84, 0x32caab7b40c72493, 0x3c9ebe0a15c9bebc, 0x431d67c49c100d4c] ++
  [0x4cc5d4becb3e42b6, 0x597f299cfc657e2a, 0x5fcb6fab3ad6faec, 0x6c44198c4a475817]

/-- SHA-512: functions of R175, initial value of R173. -/
def sha512Params : Sha2Params 64 where
  constants := sha512K
  bsig0 x := rotr x 28 ^^^ rotr x 34 ^^^ rotr x 39
  bsig1 x := rotr x 14 ^^^ rotr x 18 ^^^ rotr x 41
  ssig0 x := rotr x 1 ^^^ rotr x 8 ^^^ (x >>> 7)
  ssig1 x := rotr x 19 ^^^ rotr x 61 ^^^ (x >>> 6)
  init := ⟨0x6A09E667F3BCC908, 0xBB67AE8584CAA73B, 0x3C6EF372FE94F82B, 0xA54FF53A5F1D36F1,
    0x510E527FADE682D1, 0x9B05688C2B3E6C1F, 0x1F83D9ABFB41BD6B, 0x5BE0CD19137E2179⟩

/-- `Hash(alg, m)`: every evaluation starts from the algorithm's initial value (R160, R179). -/
def hash (A : Alg) (m : List Byte) : List Byte :=
  match A with
  | .sha1 => sha1 m
  | .sha256 => sha2 .sha256 sha256Params m
  | .sha512 => sha2 .sha512 sha512Params m

end Sys2Proof.Machine
end

