-- ==== Sys2Proof/Machine/Hmac.lean ====
section
/-! DEFINITION. The Digest Function and the command HMAC (41_digest_hmac.md R140 to R150). -/

namespace Sys2Proof.Machine

/-- `msg(f)`: the 64-bit factor as 8 bytes, most significant first, whatever its sign (R141). -/
def message (f : DWord) : List Byte := ser 8 f.toNat

/-- `IPAD` (R143). -/
def ipad : Byte := 0x36

/-- `OPAD` (R143). -/
def opad : Byte := 0x5C

/-- `K0`: a key longer than a block is hashed first; then it is padded with zeros to a block (R144). -/
def prepareKey (A : Alg) (key : List Byte) : List Byte :=
  if A.blockBytes < key.length then hash A key ++ zeros (A.blockBytes - A.digestBytes)
  else key ++ zeros (A.blockBytes - key.length)

/-- `K0 ⊕ rep(c, B)` (R145, R146). -/
def xorPad (k0 : List Byte) (c : Byte) : List Byte := k0.map (fun b => b ^^^ c)

/-- `inner` (R145). -/
def innerHash (A : Alg) (key msg : List Byte) : List Byte := hash A (xorPad (prepareKey A key) ipad ++ msg)

/-- `HMAC(alg, key, msg)` (R146). -/
def hmacOf (A : Alg) (key msg : List Byte) : List Byte :=
  hash A (xorPad (prepareKey A key) opad ++ innerHash A key msg)

/-- `DigestFn(alg, key, f)`, which HMAC and GEN share (R147). -/
def digestFn (A : Alg) (key : List Byte) (f : DWord) : List Byte := hmacOf A key (message f)

/-- `Exec(HMAC)` (R148): reads CFG.ALG, FACTOR, KEYLEN and the key alone; CHAL is ignored (R149). -/
def hmacExec (s : State) : Except FaultCode State :=
  if s.keyTooLong then .error .invalidSecret
  else
    match Alg.ofCode s.alg with
    | none => .error .algorithmUnavailable
    | some A =>
      .ok { s with
        dlen := BitVec.ofNat 7 A.digestBytes
        digest := s.digest.writeBytes 0 (digestFn A s.keyBytes s.factor) }

/-- The meaning of HMAC: the completion step on `Exec(HMAC)` (R148, 40_command_protocol.md R116). -/
def execHmac (s : State) : Host.Outcome State Fault Refusal := complete s (hmacExec s)

end Sys2Proof.Machine
end

