-- ==== Sys2Proof/Machine/CodeGen.lean ====
section
/-! DEFINITION. The Code Generator: quantization, dynamic truncation, formatting, and the commands QUANT, TRUNC and GEN
(43_codegen_quant_trunc.md R190 to R207). -/

namespace Sys2Proof.Machine

/-! ### Quantization (R191 to R194) -/

/-- `floor_div(f, p)`, rounding down for negative `f` too (R191). -/
def floorDiv (f : Int) (p : Nat) : Int := Int.fdiv f p

/-- `EffFactor(mode, F, P)`: the bucket in TOTP mode, F itself in HOTP mode (R193, R194). -/
def effFactor (mode : BitVec 1) (f : DWord) (p : Word) : DWord :=
  if mode = 0 then BitVec.ofInt 64 (floorDiv f.toInt p.toNat) else f

/-! ### Dynamic truncation and formatting (R195 to R200) -/

/-- The offset: low 4 bits of the digest's last byte (R195). -/
def dynOffset (dg : List Byte) : BitVec 4 := (dg.getD (dg.length - 1) 0).extractLsb' 0 4

/-- The 4-byte big-endian read at an offset (R196). -/
def dynWord (dg : List Byte) (offset : BitVec 4) : Word := BitVec.ofNat 32 (be ((dg.drop offset.toNat).take 4))

/-- The value: the word without its top bit (R197). -/
def dynValue (dg : List Byte) : BitVec 31 := ((dynWord dg (dynOffset dg)) &&& 0x7FFFFFFF).setWidth 31

/-- `code_int` (R198). -/
def codeOf (value : BitVec 31) (digits : Nat) : Nat := value.toNat % 10 ^ digits

/-- Character `i` of the code (R199). -/
def fmtChar (code digits i : Nat) : Byte := BitVec.ofNat 8 (0x30 + code / 10 ^ (digits - 1 - i) % 10)

/-- `Fmt(code, digits)`: exactly `digits` ASCII decimal characters, most significant first (R199). -/
def fmt (code digits : Nat) : List Byte := (List.range digits).map (fmtChar code digits)

/-! ### Exec (R203 to R205) -/

/-- `Exec(QUANT)` (R203). -/
def quantExec (s : State) : Except FaultCode State :=
  if s.periodIllegal then .error .periodZero
  else .ok { s with bucket := effFactor s.mode s.factor s.period }

/-- `Exec(TRUNC)`, checks in the order of R204. -/
def truncExec (s : State) : Except FaultCode State :=
  if s.digitsIllegal then .error .digitsRange
  else if s.dlen = 0 then .error .emptyDigest
  else if Config.digestMax < s.dlen.toNat then .error .digestLength
  else if s.dlen.toNat < (dynOffset s.digestBytes).toNat + 4 then .error .digestLength
  else
    .ok { s with
      truncOffset := dynOffset s.digestBytes
      truncValue := dynValue s.digestBytes
      codeInt := BitVec.ofNat 32 (codeOf (dynValue s.digestBytes) s.digitCount)
      codeStr := s.codeStr.writeBytes 0 (fmt (codeOf (dynValue s.digestBytes) s.digitCount) s.digitCount) }

/-- The end of `Exec(GEN)` from the digest on: the two checks that R207 calls unreachable, then the code (R205). -/
def genFromDigest (s : State) (b : DWord) (dg : List Byte) : Except FaultCode State :=
  if dg.length = 0 then .error .emptyDigest
  else if dg.length < (dynOffset dg).toNat + 4 then .error .digestLength
  else
    .ok { s with
      bucket := b
      codeInt := BitVec.ofNat 32 (codeOf (dynValue dg) s.digitCount)
      codeStr := s.codeStr.writeBytes 0 (fmt (codeOf (dynValue dg) s.digitCount) s.digitCount) }

/-- `Exec(GEN)`, checks in the order of R205; the digest stays inside the engine. -/
def genExec (s : State) : Except FaultCode State :=
  if s.digitsIllegal then .error .digitsRange
  else if s.periodIllegal then .error .periodZero
  else if s.keyTooLong then .error .invalidSecret
  else
    match Alg.ofCode s.alg with
    | none => .error .algorithmUnavailable
    | some A =>
      genFromDigest s (effFactor s.mode s.factor s.period)
        (digestFn A s.keyBytes (effFactor s.mode s.factor s.period))

/-- The meaning of QUANT: the completion step on `Exec(QUANT)` (R203, 40_command_protocol.md R116). -/
def execQuant (s : State) : Host.Outcome State Fault Refusal := complete s (quantExec s)

/-- The meaning of TRUNC: the completion step on `Exec(TRUNC)` (R204, 40_command_protocol.md R116). -/
def execTrunc (s : State) : Host.Outcome State Fault Refusal := complete s (truncExec s)

/-- The meaning of GEN: the completion step on `Exec(GEN)` (R205, 40_command_protocol.md R116). -/
def execGen (s : State) : Host.Outcome State Fault Refusal := complete s (genExec s)

end Sys2Proof.Machine
end

