-- ==== Sys2Proof/Machine/Clear.lean ====
section
/-! DEFINITION. The command CLR (40_command_protocol.md R120). -/

namespace Sys2Proof.Machine

/-- FACTOR, KEYLEN, KEY, CHALLEN and CHAL zeroed (R120). -/
def State.clearOperands (s : State) : State :=
  { s with factor := 0, keylen := 0, key := [], challen := 0, chal := [] }

/-- `Exec(CLR)`: operands, results and the recorded fault cleared; CFG, PERIOD, IEN, REJ, REJCAUSE, WRIGN and LASTOP stay.
It never faults (R120). -/
def clrExec (s : State) : Except FaultCode State := .ok s.clearOperands.clearOutputs.ackErr

/-- The meaning of CLR: the completion step on `Exec(CLR)` (R120, R116). -/
def execClr (s : State) : Host.Outcome State Fault Refusal := complete s (clrExec s)

end Sys2Proof.Machine
end

