-- ==== Sys2Proof/Machine/Dispatch.lean ====
section
/-! DEFINITION. What each command does when it completes (40_command_protocol.md R116): one arm per command. -/

namespace Sys2Proof.Machine

def exec (i : Instr) (s : State) : Host.Outcome State Fault Refusal :=
  match i with
  | .gen => Sys2Proof.Machine.execGen s
  | .hmac => Sys2Proof.Machine.execHmac s
  | .trunc => Sys2Proof.Machine.execTrunc s
  | .quant => Sys2Proof.Machine.execQuant s
  | .clr => Sys2Proof.Machine.execClr s

end Sys2Proof.Machine
end

