-- ==== Sys2Proof/Machine/Window.lean ====
section
/-! DEFINITION. The register window: the address map, the host's read and write (20_memory.md R60 to R68). -/

namespace Sys2Proof.Machine

/-- The address map (R66). Offsets the map does not name are reserved (R67). -/
def regAt (off : Nat) : Reg :=
  if off = 0x000 then .id
  else if off = 0x004 then .cfg
  else if off = 0x008 then .period
  else if off = 0x00C then .cmd
  else if off = 0x010 then .status
  else if off = 0x014 then .ien
  else if off = 0x018 then .factorLo
  else if off = 0x01C then .factorHi
  else if off = 0x020 then .keylen
  else if off = 0x024 then .challen
  else if off = 0x028 then .bucketLo
  else if off = 0x02C then .bucketHi
  else if off = 0x030 then .dlen
  else if off = 0x034 then .truncOffset
  else if off = 0x038 then .truncValue
  else if off = 0x03C then .codeInt
  else if 0x040 ≤ off ∧ off < 0x04C then .codeStr ((off - 0x040) / 4)
  else if 0x080 ≤ off ∧ off < 0x0C0 then .digest ((off - 0x080) / 4)
  else if 0x0C0 ≤ off ∧ off < 0x100 then .chal ((off - 0x0C0) / 4)
  else if 0x100 ≤ off ∧ off < 0x200 then .key ((off - 0x100) / 4)
  else .reserved

/-- The registers a host write cannot change while BUSY = 1 (R63, 70_reset_and_hazards.md R310). -/
def Reg.locked : Reg → Bool
  | .cfg | .period | .factorLo | .factorHi | .keylen | .challen | .dlen => true
  | .digest _ | .chal _ | .key _ => true
  | .id | .cmd | .status | .ien | .bucketLo | .bucketHi | .truncOffset | .truncValue | .codeInt => false
  | .codeStr _ | .reserved => false

/-- CFG as the host reads it, reserved bits 0 (10_state.md R23). -/
def State.cfgWord (s : State) : Word := 0#20 ++ s.digits ++ 0#3 ++ s.mode ++ 0#2 ++ s.alg

/-- IEN as the host reads it, reserved bits 0 (10_state.md R27). -/
def State.ienWord (s : State) : Word := 0#30 ++ BitVec.ofBool s.errIe ++ BitVec.ofBool s.doneIe

/-- `MemRead`: the register assembled from its fields with reserved bits 0; CMD and reserved offsets read 0 (R62, R67). -/
def readReg (s : State) : Reg → Word
  | .id => Config.idValue
  | .cfg => s.cfgWord
  | .period => s.period
  | .cmd => 0
  | .status => s.statusWord
  | .ien => s.ienWord
  | .factorLo => s.factor.extractLsb' 0 32
  | .factorHi => s.factor.extractLsb' 32 32
  | .keylen => s.keylen.setWidth 32
  | .challen => s.challen.setWidth 32
  | .bucketLo => s.bucket.extractLsb' 0 32
  | .bucketHi => s.bucket.extractLsb' 32 32
  | .dlen => s.dlen.setWidth 32
  | .truncOffset => s.truncOffset.setWidth 32
  | .truncValue => s.truncValue.setWidth 32
  | .codeInt => s.codeInt
  | .codeStr w => s.codeStr.readWord w
  | .digest w => s.digest.readWord w
  | .chal w => s.chal.readWord w
  | .key w => s.key.readWord w
  | .reserved => 0

/-- The writable fields of a locked register set from the same bits of the word; the other bits are dropped (R63). A register
that is not locked has none here. -/
def storeLocked (s : State) (v : Word) : Reg → State
  | .cfg => { s with alg := v.extractLsb' 0 2, mode := v.extractLsb' 4 1, digits := v.extractLsb' 8 4 }
  | .period => { s with period := v }
  | .factorLo => { s with factor := s.factor.extractLsb' 32 32 ++ v }
  | .factorHi => { s with factor := v ++ s.factor.extractLsb' 0 32 }
  | .keylen => { s with keylen := v.extractLsb' 0 16 }
  | .challen => { s with challen := v.extractLsb' 0 16 }
  | .dlen => { s with dlen := v.extractLsb' 0 7 }
  | .digest w => { s with digest := s.digest.writeWord w v }
  | .chal w => { s with chal := s.chal.writeWord w v }
  | .key w => { s with key := s.key.writeWord w v }
  | .id | .cmd | .status | .ien | .bucketLo | .bucketHi | .truncOffset | .truncValue | .codeInt => s
  | .codeStr _ | .reserved => s

/-- The host's write of IEN, not locked (10_state.md R27). -/
def ienWrite (s : State) (v : Word) : State := { s with doneIe := v.getLsbD 0, errIe := v.getLsbD 1 }

/-- `MemWrite` by the class of the register (R63): a command, the W1C of STATUS, IEN, a locked register, or no effect. -/
def writeReg (s : State) (v : Word) (r : Reg) : State :=
  if r = .cmd then cmdWrite s v
  else if r = .status then statusWrite s v
  else if r = .ien then ienWrite s v
  else if r.locked then (if s.busy then s.ignoreWrite else storeLocked s v r)
  else s

/-- The port's answer kept in the model's own field. -/
def State.respond (s : State) (r : Response) : State := { s with resp := some r }

/-- One access of the host. Outside the window it does not reach the block and is refused (R68, log entry 5); malformed, it
answers `error` and changes nothing (R68); otherwise a read changes nothing (R62) and a write acts by R63. -/
def hostAccess (s : State) (a : Access) : Host.Outcome State Fault Refusal :=
  if inWindow a.off = false then .refused .outsideWindow
  else if wellFormedAccess a.off a.size = false then .next (s.respond .error)
  else
    match a.kind with
    | .read => .next (s.respond (.okRead (readReg s (regAt a.off))))
    | .write => .next ((writeReg s a.wdata (regAt a.off)).respond .okWrite)

end Sys2Proof.Machine
end

