-- ==== Sys2Proof/Machine/Engine.lean ====
section
/-! DEFINITION. The engine's turn and the events of the total order (40_command_protocol.md R116, 20_memory.md R73). -/

namespace Sys2Proof.Machine

/-- The engine's turn: enabled exactly when BUSY = 1, it completes the command in STATUS.LASTOP (R116). Idle, there is
nothing to complete (95_test_vectors.md P6). -/
def engineStep (s : State) : Host.Outcome State Fault Refusal :=
  if s.busy then
    match decodeOpcode s.lastop with
    | some i => exec i s
    | none => .fault .lastopNotACommand
  else .next s

/-- Reset: the one reset state, in every state and busy or not (70_reset_and_hazards.md R300, R302). What is still pending
is not part of the block and stays (log entry 1). -/
def resetStep (s : State) : State := { State.reset with pending := s.pending }

/-- One event on the block. -/
def eventStep (s : State) : Event → Host.Outcome State Fault Refusal
  | .host a => hostAccess s a
  | .engine => engineStep s
  | .reset => .next (resetStep s)

/-- The first pending event happens; with nothing pending the engine has its turn (log entry 1). -/
def nextStep (s : State) : Host.Outcome State Fault Refusal :=
  match s.pending with
  | [] => engineStep s
  | e :: rest => eventStep { s with pending := rest } e

/-- The state in which a command has just been accepted and nothing else is pending, so that the next step completes it.
A recorded fault is acknowledged first where acceptance needs it (40_command_protocol.md R113, R114; log entry 3). -/
def acceptNow (s : State) (i : Instr) : State :=
  if i = .clr then { s.accept i with pending := [] } else { s.ackErr.accept i with pending := [] }

/-- The state in which the host's write of the word to CMD comes next. -/
def cmdWriteNext (s : State) (w : Word) : State :=
  { s with pending := [.host ⟨.write, 0x00C, 4, w⟩] }

end Sys2Proof.Machine
end

