-- ==== Sys2Proof/Machine/Step.lean ====
section
/-! DEFINITION. One step of the machine, and how an instruction is placed to be run by the next step. -/

namespace Sys2Proof.Machine

/-- One step: the next event in the total order of steps on the block (20_memory.md R73). -/
def step (s : State) : Host.Outcome State Fault Refusal := nextStep s

/-- The block fetches nothing (10_state.md R22): the command in progress is held by BUSY and LASTOP. So the instruction is
placed by accepting it, and the very next step runs it. A word that is no command is placed as the host's write of it to
CMD, which the next step rejects (log entry 3). -/
def State.withFetchWord (s : State) (nbits w : Nat) : State :=
  match decodeTableWord nbits w with
  | some i => acceptNow s i
  | none => cmdWriteNext s (BitVec.ofNat 32 w)

end Sys2Proof.Machine
end

