-- ==== Sys2Proof/Safety.lean ====
section
/-! DEFINITION. What counts as a safe state: the invariants 10_state.md R47 lists, the canonical form of the buffers, and the
outputs reading zero while a command is in progress (40_command_protocol.md R115). -/

namespace Sys2Proof.Machine

/-- A byte CODE_STR may hold: 0x00 or an ASCII decimal digit (10_state.md R47 (g)). -/
def isCodeByte (b : Byte) : Bool := b == 0 || (decide (0x30 ≤ b.toNat) && decide (b.toNat ≤ 0x39))

/-- The four buffers are in canonical form, each within its size (10_state.md R30, R32, R35, R39). -/
structure BuffersWf (s : State) : Prop where
  codeStr : s.codeStr.wf Config.codeStrMax = true
  digest : s.digest.wf Config.digestMax = true
  chal : s.chal.wf Config.chalMax = true
  key : s.key.wf Config.keyMax = true

/-- The flags agree with one another: 10_state.md R47 (a), (b), (c), (d), (e), (i). -/
structure FlagsWf (s : State) : Prop where
  busyNotDone : s.busy = true → s.done = false
  errIffCode : s.err = false ↔ s.errcode = 0
  errcodeLegal : s.errcode.toNat ≤ 6
  rejIffCause : s.rej = false ↔ s.rejcause = 0
  lastopLegal : s.lastop.toNat ≤ 5
  busyLastop : s.busy = true → 1 ≤ s.lastop.toNat
  busyErr : s.busy = true → s.err = true → s.lastop = 5
  doneNotErr : ¬ (s.done = true ∧ s.err = true)

/-- The results are in their ranges: 10_state.md R47 (f), (g). -/
structure ResultsWf (s : State) : Prop where
  codeIntBelow : s.codeInt.toNat < 2 ^ 31
  codeStrTail : s.codeStr.read 10 = 0 ∧ s.codeStr.read 11 = 0
  codeStrBytes : ∀ i : Nat, isCodeByte (s.codeStr.read i) = true

/-- While a command is in progress the outputs it will write read zero: the truncation outputs for every command, the whole
output chain for every command but TRUNC (40_command_protocol.md R115, 70_reset_and_hazards.md R312). -/
structure BusyOutputsClear (s : State) : Prop where
  truncOutputs : s.busy = true → s.truncOffset = 0 ∧ s.truncValue = 0 ∧ s.codeInt = 0 ∧ s.codeStr = []
  chain : s.busy = true → s.lastop ≠ 3 → s.bucket = 0 ∧ s.dlen = 0 ∧ s.digest = []

/-- The invariant of the block. -/
structure Inv (s : State) : Prop where
  buffers : BuffersWf s
  flags : FlagsWf s
  results : ResultsWf s
  busyOutputs : BusyOutputsClear s

/-- A run of `k` steps from `s` is safe if it ends in no fault and no refusal. -/
def safeRun (k : Nat) (s : State) : Prop := ∃ t : State, Sys2Proof.core.run k s = .next t

end Sys2Proof.Machine
end

