-- ==== Sys2Proof/Certificates/Slice0/Obligations.lean ====
section
/-! DEFINITION. The statements for the provers, from the numbered rules of spec/. Each docstring names the rule or the
section it formalises, and the log entry where a clause rests on a choice of the model. -/

open Sys2Proof Sys2Proof.Machine

/-! ### Command words (30_encoding.md) -/

/-- R91: the five command words, read as the opcode table numbers them, and one word beside each end of the map. -/
def Obligations.CommandWordsDecode : Prop :=
  decodeTableWord 32 0x00000001 = some .gen ∧ decodeTableWord 32 0x00000002 = some .hmac ∧
  decodeTableWord 32 0x00000003 = some .trunc ∧ decodeTableWord 32 0x00000004 = some .quant ∧
  decodeTableWord 32 0x00000005 = some .clr ∧
  decodeTableWord 32 0x00000000 = none ∧ decodeTableWord 32 0x00000006 = none ∧
  decodeTableWord 32 0x00000011 = none ∧ decodeTableWord 32 0x80000001 = none

/-- 30_encoding.md section 1: decoding and encoding undo one another; each command has exactly one word. -/
def Obligations.DecodeEncodeAgree : Prop :=
  (∀ i : Instr, i.wellFormed = true → decodeWord (encode i) = .ok i) ∧
  (∀ (v : Word) (i : Instr), decodeWord v = .ok i → v = encode i) ∧
  (∀ (n : Nat) (i : Instr), decodeTableWord 32 n = some i → n = (encode i).toNat)

/-- 30_encoding.md section 1 (R92): a word is refused exactly when bits 31:4 are not all zero or bits 3:0 are 0 or one of
6 to 15, and exactly then it is not well formed. -/
def Obligations.IllegalWordsRefused : Prop :=
  ∀ v : Word,
    ((∃ e : DecodeError, decodeWord v = .error e) ↔
      (v.extractLsb' 4 28 ≠ 0#28 ∨ v.extractLsb' 0 4 = 0#4 ∨ 6 ≤ (v.extractLsb' 0 4).toNat)) ∧
    ((∃ e : DecodeError, decodeWord v = .error e) ↔ wellFormedWord v = false)

/-! ### The step (40_command_protocol.md, 20_memory.md R73) -/

/-- 40_command_protocol.md section 1 (R116): with a command in progress, the engine's turn is the command's completion. That
the engine has its turn when nothing is pending is the model's choice (log entry 1). -/
def Obligations.StepRunsCommandInProgress : Prop :=
  ∀ (s : State) (i : Instr) (rest : List Event),
    s.busy = true → decodeOpcode s.lastop = some i →
    (s.pending = [] → step s = exec i s) ∧
    (s.pending = .engine :: rest → step s = exec i { s with pending := rest })

/-- 20_memory.md section 5 (R73) in the model's form (log entry 1): the first pending event is the next step, with nothing
pending the engine has its turn, and with no command in progress the engine's turn changes nothing. -/
def Obligations.StepTakesPendingEvent : Prop :=
  ∀ (s : State) (e : Event) (a : Access) (rest : List Event),
    (s.pending = e :: rest → step s = eventStep { s with pending := rest } e) ∧
    (s.pending = [] → step s = eventStep s .engine) ∧
    (s.pending = .host a :: rest → step s = hostAccess { s with pending := rest } a) ∧
    (s.busy = false → eventStep s .engine = .next s)

/-- 40_command_protocol.md section 1 in the model's form (log entry 3): the very next step runs the placed command, which is
then in progress, accepted and with its outputs cleared. -/
def Obligations.PlacedCommandRunsNext : Prop :=
  ∀ (s : State) (i : Instr),
    step (s.withFetchWord 32 (encode i).toNat) = exec i (s.withFetchWord 32 (encode i).toNat) ∧
    (s.withFetchWord 32 (encode i).toNat).busy = true ∧
    (s.withFetchWord 32 (encode i).toNat).done = false ∧
    (s.withFetchWord 32 (encode i).toNat).lastop = i.opcode ∧
    (s.withFetchWord 32 (encode i).toNat).codeStr = []

/-! ### Reset (70_reset_and_hazards.md, 10_state.md R45) -/

/-- R300: reset is enabled in every state, busy or not, and yields the one reset state. Nothing is said of the model's own two
fields. -/
def Obligations.ResetYieldsResetState : Prop :=
  ∀ s : State, ∃ t : State, eventStep s .reset = .next t ∧
    t =
      { alg := 0, mode := 0, digits := 6, period := 30, busy := false, done := false, err := false, rej := false,
        wrign := false, errcode := 0, lastop := 0, rejcause := 0, doneIe := false, errIe := false, factor := 0,
        keylen := 0, challen := 0, bucket := 0, dlen := 0, truncOffset := 0, truncValue := 0, codeInt := 0,
        codeStr := [], digest := [], chal := [], key := [], pending := t.pending, resp := t.resp }

/-- R45: what the host reads right after reset, the interrupt line, and every byte of every buffer. -/
def Obligations.ResetRegisterValues : Prop :=
  readReg State.reset .cfg = 0x00000600 ∧ readReg State.reset .period = 30 ∧ readReg State.reset .status = 0 ∧
  readReg State.reset .ien = 0 ∧ State.reset.busy = false ∧ State.reset.err = false ∧ State.reset.irq = false ∧
  State.reset.factor = 0 ∧ State.reset.keylen = 0 ∧ State.reset.challen = 0 ∧ State.reset.bucket = 0 ∧
  State.reset.dlen = 0 ∧ State.reset.truncOffset = 0 ∧ State.reset.truncValue = 0 ∧ State.reset.codeInt = 0 ∧
  ∀ i : Nat, State.reset.key.read i = 0 ∧ State.reset.chal.read i = 0 ∧ State.reset.digest.read i = 0 ∧
    State.reset.codeStr.read i = 0

/-! ### Reads of the window (20_memory.md R62, R64, R65) -/

/-- 20_memory.md section 1 (R62): a well-formed read answers with the register's word and changes no state, busy or idle.
The answer is held in the model's own field (log entry 2). -/
def Obligations.ReadChangesNothing : Prop :=
  ∀ (s : State) (off : Nat) (d : Word), off < 4096 → off % 4 = 0 →
    hostAccess s ⟨.read, off, 4, d⟩ = .next { s with resp := some (.okRead (readReg s (regAt off))) }

/-- 10_state.md section 3 (R26): every field of STATUS at its place, reserved bits 0. -/
def Obligations.StatusReadLayout : Prop :=
  ∀ s : State,
    let v := readReg s (regAt 0x010)
    v.getLsbD 0 = s.busy ∧ v.getLsbD 1 = s.done ∧ v.getLsbD 2 = s.err ∧ v.getLsbD 3 = s.rej ∧ v.getLsbD 4 = s.wrign ∧
    v.extractLsb' 5 3 = 0#3 ∧ v.extractLsb' 8 4 = s.errcode ∧ v.extractLsb' 12 4 = s.lastop ∧
    v.extractLsb' 16 2 = s.rejcause ∧ v.extractLsb' 18 14 = 0#14

/-- 10_state.md sections 2 to 5 (R21 to R38): every other scalar register at its offset, its fields at their places and its
reserved bits 0. -/
def Obligations.ScalarReadLayout : Prop :=
  ∀ s : State,
    readReg s (regAt 0x000) = 0x4F545031 ∧
    (readReg s (regAt 0x004)).extractLsb' 0 2 = s.alg ∧ (readReg s (regAt 0x004)).extractLsb' 2 2 = 0#2 ∧
    (readReg s (regAt 0x004)).extractLsb' 4 1 = s.mode ∧ (readReg s (regAt 0x004)).extractLsb' 5 3 = 0#3 ∧
    (readReg s (regAt 0x004)).extractLsb' 8 4 = s.digits ∧ (readReg s (regAt 0x004)).extractLsb' 12 20 = 0#20 ∧
    readReg s (regAt 0x008) = s.period ∧ readReg s (regAt 0x00C) = 0 ∧
    (readReg s (regAt 0x020)).toNat = s.keylen.toNat ∧ (readReg s (regAt 0x024)).toNat = s.challen.toNat ∧
    (readReg s (regAt 0x030)).toNat = s.dlen.toNat ∧ (readReg s (regAt 0x034)).toNat = s.truncOffset.toNat ∧
    (readReg s (regAt 0x038)).toNat = s.truncValue.toNat ∧ readReg s (regAt 0x03C) = s.codeInt

/-- R65: the 64-bit registers are pairs, the low half at the lower offset. -/
def Obligations.PairRegistersReadLowFirst : Prop :=
  ∀ s : State,
    s.factor.toNat = (readReg s (regAt 0x01C)).toNat * 2 ^ 32 + (readReg s (regAt 0x018)).toNat ∧
    s.bucket.toNat = (readReg s (regAt 0x02C)).toNat * 2 ^ 32 + (readReg s (regAt 0x028)).toNat

/-- R64: a word of a buffer is its four bytes, the lowest index in bits 31:24, for reads of the four buffers and for idle
writes of the three that the host may write; a write leaves every other byte and all other state alone. -/
def Obligations.BufferWordsBigEndian : Prop :=
  (∀ (s : State) (w : Nat),
    (w < 3 → readReg s (regAt (0x040 + 4 * w)) =
      s.codeStr.read (4 * w) ++ s.codeStr.read (4 * w + 1) ++ s.codeStr.read (4 * w + 2) ++ s.codeStr.read (4 * w + 3)) ∧
    (w < 16 → readReg s (regAt (0x080 + 4 * w)) =
      s.digest.read (4 * w) ++ s.digest.read (4 * w + 1) ++ s.digest.read (4 * w + 2) ++ s.digest.read (4 * w + 3)) ∧
    (w < 16 → readReg s (regAt (0x0C0 + 4 * w)) =
      s.chal.read (4 * w) ++ s.chal.read (4 * w + 1) ++ s.chal.read (4 * w + 2) ++ s.chal.read (4 * w + 3)) ∧
    (w < 64 → readReg s (regAt (0x100 + 4 * w)) =
      s.key.read (4 * w) ++ s.key.read (4 * w + 1) ++ s.key.read (4 * w + 2) ++ s.key.read (4 * w + 3))) ∧
  (∀ (s : State) (w : Nat) (v : Word), BuffersWf s → s.busy = false →
    (w < 16 →
      ∃ m : Memory, hostAccess s ⟨.write, 0x080 + 4 * w, 4, v⟩ = .next { s with digest := m, resp := some .okWrite } ∧
        (∀ j : Nat, j < 4 → m.read (4 * w + j) = v.extractLsb' (24 - 8 * j) 8) ∧
        ∀ a : Nat, a < 4 * w ∨ 4 * w + 4 ≤ a → m.read a = s.digest.read a) ∧
    (w < 16 →
      ∃ m : Memory, hostAccess s ⟨.write, 0x0C0 + 4 * w, 4, v⟩ = .next { s with chal := m, resp := some .okWrite } ∧
        (∀ j : Nat, j < 4 → m.read (4 * w + j) = v.extractLsb' (24 - 8 * j) 8) ∧
        ∀ a : Nat, a < 4 * w ∨ 4 * w + 4 ≤ a → m.read a = s.chal.read a) ∧
    (w < 64 →
      ∃ m : Memory, hostAccess s ⟨.write, 0x100 + 4 * w, 4, v⟩ = .next { s with key := m, resp := some .okWrite } ∧
        (∀ j : Nat, j < 4 → m.read (4 * w + j) = v.extractLsb' (24 - 8 * j) 8) ∧
        ∀ a : Nat, a < 4 * w ∨ 4 * w + 4 ≤ a → m.read a = s.key.read a))

/-! ### Writes of the window (20_memory.md R63, R67, R68, 70_reset_and_hazards.md R310) -/

/-- 20_memory.md section 1 (R63): an idle write of a locked scalar register stores the writable fields from the same bits of
the word and changes nothing else. -/
def Obligations.IdleWriteStoresFields : Prop :=
  ∀ (s : State) (v : Word), s.busy = false →
    hostAccess s ⟨.write, 0x004, 4, v⟩ = .next { s with
      alg := v.extractLsb' 0 2, mode := v.extractLsb' 4 1, digits := v.extractLsb' 8 4, resp := some .okWrite } ∧
    hostAccess s ⟨.write, 0x008, 4, v⟩ = .next { s with period := v, resp := some .okWrite } ∧
    (∃ f : DWord, hostAccess s ⟨.write, 0x018, 4, v⟩ = .next { s with factor := f, resp := some .okWrite } ∧
      f.toNat = s.factor.toNat / 2 ^ 32 * 2 ^ 32 + v.toNat) ∧
    (∃ f : DWord, hostAccess s ⟨.write, 0x01C, 4, v⟩ = .next { s with factor := f, resp := some .okWrite } ∧
      f.toNat = v.toNat * 2 ^ 32 + s.factor.toNat % 2 ^ 32) ∧
    hostAccess s ⟨.write, 0x020, 4, v⟩ = .next { s with keylen := BitVec.ofNat 16 v.toNat, resp := some .okWrite } ∧
    hostAccess s ⟨.write, 0x024, 4, v⟩ = .next { s with challen := BitVec.ofNat 16 v.toNat, resp := some .okWrite } ∧
    hostAccess s ⟨.write, 0x030, 4, v⟩ = .next { s with dlen := BitVec.ofNat 7 v.toNat, resp := some .okWrite }

/-- R310: while busy a write to a locked register or buffer word is ignored and sets WRIGN; nothing else changes. -/
def Obligations.LockedWriteIgnoredWhileBusy : Prop :=
  ∀ (s : State) (off : Nat) (v : Word), s.busy = true →
    (off = 0x004 ∨ off = 0x008 ∨ off = 0x018 ∨ off = 0x01C ∨ off = 0x020 ∨ off = 0x024 ∨ off = 0x030 ∨
      (0x080 ≤ off ∧ off < 0x200 ∧ off % 4 = 0)) →
    hostAccess s ⟨.write, off, 4, v⟩ = .next { s with wrign := true, resp := some .okWrite }

/-- R67: reserved offsets read 0 and ignore writes, read-only registers ignore writes, and no flag is set; reserved bits
inside a register read 0. -/
def Obligations.ReservedReadZeroWriteIgnored : Prop :=
  (∀ (s : State) (off : Nat) (v : Word), off % 4 = 0 →
    ((0x04C ≤ off ∧ off < 0x080) ∨ (0x200 ≤ off ∧ off < 0x1000) →
      hostAccess s ⟨.read, off, 4, v⟩ = .next { s with resp := some (.okRead 0) } ∧
      hostAccess s ⟨.write, off, 4, v⟩ = .next { s with resp := some .okWrite }) ∧
    (off = 0x000 ∨ off = 0x028 ∨ off = 0x02C ∨ (0x034 ≤ off ∧ off < 0x04C) →
      hostAccess s ⟨.write, off, 4, v⟩ = .next { s with resp := some .okWrite })) ∧
  (∀ s : State,
    readReg s .cfg &&& 0xFFFFF0EC = 0 ∧ readReg s .status &&& 0xFFFC00E0 = 0 ∧ readReg s .ien &&& 0xFFFFFFFC = 0 ∧
    readReg s .keylen &&& 0xFFFF0000 = 0 ∧ readReg s .challen &&& 0xFFFF0000 = 0 ∧ readReg s .dlen &&& 0xFFFFFF80 = 0 ∧
    readReg s .truncOffset &&& 0xFFFFFFF0 = 0 ∧ readReg s .truncValue &&& 0x80000000 = 0)

/-- 20_memory.md section 4 (R68): a malformed access answers error and changes no state, read or write, at every offset, CMD
among them; an access outside the window does not reach the block, and the model refuses it (log entry 5). -/
def Obligations.MalformedAccessChangesNothing : Prop :=
  ∀ (s : State) (a : Access),
    (a.off < 4096 → (a.size ≠ 4 ∨ a.off % 4 ≠ 0) → hostAccess s a = .next { s with resp := some .error }) ∧
    (4096 ≤ a.off → hostAccess s a = .refused .outsideWindow)

/-- 10_state.md section 3 (R26): a write of STATUS clears exactly what its bits 1 to 4 name, busy or idle; ERRCODE goes with
ERR and REJCAUSE with REJ, and BUSY and LASTOP stay. -/
def Obligations.StatusWriteClearsNamedFlags : Prop :=
  ∀ (s : State) (v : Word),
    hostAccess s ⟨.write, 0x010, 4, v⟩ = .next { s with
      done := s.done && !v.getLsbD 1
      err := s.err && !v.getLsbD 2
      errcode := if v.getLsbD 2 then 0 else s.errcode
      rej := s.rej && !v.getLsbD 3
      rejcause := if v.getLsbD 3 then 0 else s.rejcause
      wrign := s.wrign && !v.getLsbD 4
      resp := some .okWrite }

/-- R27 and R272: IEN stores bits 1:0 of a write, busy or idle, and reads them back; the interrupt line is the function of
STATUS and IEN, and is 0 after reset. -/
def Obligations.InterruptEnableAndLine : Prop :=
  (∀ (s : State) (v : Word),
    hostAccess s ⟨.write, 0x014, 4, v⟩ =
      .next { s with doneIe := v.getLsbD 0, errIe := v.getLsbD 1, resp := some .okWrite }) ∧
  (∀ s : State,
    (readReg s (regAt 0x014)).getLsbD 0 = s.doneIe ∧ (readReg s (regAt 0x014)).getLsbD 1 = s.errIe ∧
    (readReg s (regAt 0x014)).extractLsb' 2 30 = 0#30 ∧
    (s.irq = true ↔ (s.done = true ∧ s.doneIe = true) ∨ (s.err = true ∧ s.errIe = true))) ∧
  readReg State.reset (regAt 0x014) = 0 ∧ State.reset.irq = false

/-! ### Command writes (40_command_protocol.md R111 to R115) -/

/-- R111: a command write while busy is rejected whatever the word. -/
def Obligations.CommandRejectedWhileBusy : Prop :=
  ∀ (s : State) (v : Word), s.busy = true →
    hostAccess s ⟨.write, 0x00C, 4, v⟩ = .next { s with rej := true, rejcause := 1, resp := some .okWrite }

/-- R112: an illegal word while idle is rejected, with or without a fault pending. -/
def Obligations.IllegalCommandRejected : Prop :=
  ∀ (s : State) (v : Word), s.busy = false →
    (v.extractLsb' 4 28 ≠ 0#28 ∨ ¬ (1 ≤ (v.extractLsb' 0 4).toNat ∧ (v.extractLsb' 0 4).toNat ≤ 5)) →
    hostAccess s ⟨.write, 0x00C, 4, v⟩ = .next { s with rej := true, rejcause := 3, resp := some .okWrite }

/-- R113: a legal word other than CLR while idle with a fault pending is rejected. -/
def Obligations.CommandRejectedOnPendingFault : Prop :=
  ∀ (s : State) (v : Word), s.busy = false → s.err = true → 1 ≤ v.toNat → v.toNat ≤ 4 →
    hostAccess s ⟨.write, 0x00C, 4, v⟩ = .next { s with rej := true, rejcause := 2, resp := some .okWrite }

/-- R114 and R115: a legal word while idle, with no fault pending or the word of CLR, is accepted: BUSY, DONE, LASTOP and the
outputs of the command, the truncation outputs for TRUNC and the whole output chain for the others; nothing else. -/
def Obligations.CommandAccepted : Prop :=
  ∀ (s : State) (v : Word), s.busy = false → 1 ≤ v.toNat → v.toNat ≤ 5 → (s.err = false ∨ v.toNat = 5) →
    (v.toNat = 3 → hostAccess s ⟨.write, 0x00C, 4, v⟩ = .next { s with
      busy := true, done := false, lastop := 3, truncOffset := 0, truncValue := 0, codeInt := 0, codeStr := [],
      resp := some .okWrite }) ∧
    (v.toNat ≠ 3 → hostAccess s ⟨.write, 0x00C, 4, v⟩ = .next { s with
      busy := true, done := false, lastop := BitVec.ofNat 4 v.toNat, truncOffset := 0, truncValue := 0, codeInt := 0,
      codeStr := [], bucket := 0, dlen := 0, digest := [], resp := some .okWrite })

/-! ### The commands complete: results and frames -/

/-- R191: QUANT in TOTP mode with a period above 0 completes with the greatest `q` with `q · period <= functor`, functor and
bucket read as signed; nothing else changes but BUSY and DONE. -/
def Obligations.QuantTotpFloors : Prop :=
  ∀ s : State, s.mode = 0 → s.period ≠ 0 →
    ∃ q : DWord, exec .quant s = .next { s with bucket := q, busy := false, done := true } ∧
      q.toInt * s.period.toNat ≤ s.factor.toInt ∧ s.factor.toInt < (q.toInt + 1) * s.period.toNat

/-- R193: QUANT in HOTP mode completes with the functor unchanged, whatever PERIOD holds, and GEN quantizes the same way:
the bucket of a GEN in HOTP mode that succeeds is the functor. -/
def Obligations.HotpPassesFunctor : Prop :=
  ∀ s : State, s.mode = 1 →
    exec .quant s = .next { s with bucket := s.factor, busy := false, done := true } ∧
    (s.done = false → ∀ t : State, exec .gen s = .next t → t.done = true → t.bucket = s.factor)

/-- 41_digest_hmac.md section 3 (R148): HMAC with a key that fits the buffer and an algorithm that exists completes: DLEN is
the digest's length, DIGEST[0..L) the digest of FACTOR under KEY[0..KEYLEN), every other byte and register unchanged.
CFG.MODE, PERIOD and CFG.DIGITS are not among the premises. -/
def Obligations.HmacWritesDigest : Prop :=
  ∀ (s : State) (A : Alg), Alg.ofCode s.alg = some A → s.keylen.toNat ≤ 256 → s.digest.wf 64 = true →
    ∃ m : Memory,
      exec .hmac s = .next { s with dlen := BitVec.ofNat 7 A.digestBytes, digest := m, busy := false, done := true } ∧
      ∀ i : Nat, m.read i =
        if i < A.digestBytes then
          (digestFn A ((List.range s.keylen.toNat).map (fun j => s.key.read j)) s.factor).getD i 0
        else s.digest.read i

/-- 43_codegen_quant_trunc.md section 4 (R204, with R195 to R199): TRUNC with a legal digit count and a digest the 4-byte read fits in completes. The offset is
the low nibble of the last byte, the value the four bytes at it without the top bit, the code its residue, the string its
decimal digits; every other byte and register unchanged. -/
def Obligations.TruncWritesCode : Prop :=
  ∀ s : State, 6 ≤ s.digits.toNat → s.digits.toNat ≤ 10 → 1 ≤ s.dlen.toNat → s.dlen.toNat ≤ 64 →
    s.codeStr.wf 12 = true →
    let off := (s.digest.read (s.dlen.toNat - 1)).toNat % 16
    let value := ((s.digest.read off).toNat * 2 ^ 24 + (s.digest.read (off + 1)).toNat * 2 ^ 16 +
      (s.digest.read (off + 2)).toNat * 2 ^ 8 + (s.digest.read (off + 3)).toNat) % 2 ^ 31
    let code := value % 10 ^ s.digits.toNat
    off + 4 ≤ s.dlen.toNat →
    ∃ m : Memory,
      exec .trunc s = .next { s with
        truncOffset := BitVec.ofNat 4 off, truncValue := BitVec.ofNat 31 value, codeInt := BitVec.ofNat 32 code,
        codeStr := m, busy := false, done := true } ∧
      ∀ i : Nat, m.read i =
        if i < s.digits.toNat then BitVec.ofNat 8 (0x30 + code / 10 ^ (s.digits.toNat - 1 - i) % 10)
        else s.codeStr.read i

/-- 43_codegen_quant_trunc.md section 4 (R205): GEN with a legal digit count, a period above 0 or HOTP mode, a key that fits
and an algorithm that exists completes, for every functor: the bucket is the quantized functor, the code comes from the digest
of the bucket, and the digest, the offset and the value are not left anywhere. -/
def Obligations.GenWritesCode : Prop :=
  ∀ (s : State) (A : Alg), 6 ≤ s.digits.toNat → s.digits.toNat ≤ 10 → (s.mode = 1 ∨ s.period ≠ 0) →
    s.keylen.toNat ≤ 256 → Alg.ofCode s.alg = some A → s.codeStr.wf 12 = true →
    ∃ (b : DWord) (m : Memory),
      (s.mode = 1 → b = s.factor) ∧
      (s.mode = 0 → b.toInt * s.period.toNat ≤ s.factor.toInt ∧ s.factor.toInt < (b.toInt + 1) * s.period.toNat) ∧
      let dg := digestFn A ((List.range s.keylen.toNat).map (fun j => s.key.read j)) b
      let off := (dg.getD (A.digestBytes - 1) 0).toNat % 16
      let value := ((dg.getD off 0).toNat * 2 ^ 24 + (dg.getD (off + 1) 0).toNat * 2 ^ 16 +
        (dg.getD (off + 2) 0).toNat * 2 ^ 8 + (dg.getD (off + 3) 0).toNat) % 2 ^ 31
      let code := value % 10 ^ s.digits.toNat
      dg.length = A.digestBytes ∧
      exec .gen s = .next { s with
        bucket := b, codeInt := BitVec.ofNat 32 code, codeStr := m, busy := false, done := true } ∧
      ∀ i : Nat, m.read i =
        if i < s.digits.toNat then BitVec.ofNat 8 (0x30 + code / 10 ^ (s.digits.toNat - 1 - i) % 10)
        else s.codeStr.read i

/-- R120: CLR completes in every state: operands, results and the recorded fault are zeroed, CFG, PERIOD, IEN, LASTOP and the
sticky REJ, REJCAUSE, WRIGN stay; every byte of the four buffers then reads 0. It is accepted when idle, with a fault recorded
too, and after acceptance and completion the block is in its reset state but for what the rule excepts. -/
def Obligations.ClrErases : Prop :=
  ∀ s : State,
    (∃ t : State,
      exec .clr s = .next t ∧
      t = { s with
        factor := 0, keylen := 0, key := t.key, challen := 0, chal := t.chal, bucket := 0, dlen := 0, digest := t.digest,
        truncOffset := 0, truncValue := 0, codeInt := 0, codeStr := t.codeStr, err := false, errcode := 0,
        busy := false, done := true } ∧
      ∀ i : Nat, t.key.read i = 0 ∧ t.chal.read i = 0 ∧ t.digest.read i = 0 ∧ t.codeStr.read i = 0) ∧
    (s.busy = false → cmdWrite s 0x00000005 = s.accept .clr) ∧
    exec .clr (s.accept .clr) = .next { State.reset with
      alg := s.alg, mode := s.mode, digits := s.digits, period := s.period, doneIe := s.doneIe, errIe := s.errIe,
      done := true, lastop := 5, rej := s.rej, rejcause := s.rejcause, wrign := s.wrign, pending := s.pending,
      resp := s.resp }

/-! ### Faults (60_exceptions.md) -/

/-- R264 (with R262): one fault is reported, the first in the order DigitsRange, PeriodZero, InvalidSecret,
AlgorithmUnavailable, EmptyDigest, DigestLength that applies to the command, and it records BUSY, ERR and ERRCODE alone. -/
def Obligations.FaultPriority : Prop :=
  ∀ s : State,
    let fault (c : BitVec 4) : State := { s with busy := false, err := true, errcode := c }
    let digitsBad : Prop := s.digits.toNat < 6 ∨ 10 < s.digits.toNat
    let periodBad : Prop := s.mode = 0 ∧ s.period = 0
    let keyBad : Prop := 256 < s.keylen.toNat
    let shortDigest : Prop := 64 < s.dlen.toNat ∨ s.dlen.toNat < (s.digest.read (s.dlen.toNat - 1)).toNat % 16 + 4
    (digitsBad → exec .gen s = .next (fault 4) ∧ exec .trunc s = .next (fault 4)) ∧
    (periodBad → exec .quant s = .next (fault 5)) ∧
    (¬ digitsBad → periodBad → exec .gen s = .next (fault 5)) ∧
    (keyBad → exec .hmac s = .next (fault 1)) ∧
    (¬ digitsBad → ¬ periodBad → keyBad → exec .gen s = .next (fault 1)) ∧
    (¬ keyBad → s.alg = 3 → exec .hmac s = .next (fault 2)) ∧
    (¬ digitsBad → ¬ periodBad → ¬ keyBad → s.alg = 3 → exec .gen s = .next (fault 2)) ∧
    (¬ digitsBad → s.dlen = 0 → exec .trunc s = .next (fault 3)) ∧
    (¬ digitsBad → s.dlen ≠ 0 → shortDigest → exec .trunc s = .next (fault 6))

/-- 40_command_protocol.md section 1 (R116) and 60_exceptions.md section 2 (R262): every command completes in one step, with success or with one of the
six faults; a success leaves ERR as it was but for CLR, and a fault changes BUSY, ERR and ERRCODE alone, so the interrupt line
rises if ERR_IE is set. -/
def Obligations.CompletionSucceedsOrFaults : Prop :=
  ∀ (i : Instr) (s : State), ∃ t : State, exec i s = .next t ∧ t.busy = false ∧
    ((t.done = true ∧ (i ≠ .clr → t.err = s.err ∧ t.errcode = s.errcode)) ∨
      (i ≠ .clr ∧ ∃ c : BitVec 4, 1 ≤ c.toNat ∧ c.toNat ≤ 6 ∧
        t = { s with busy := false, err := true, errcode := c } ∧ (s.errIe = true → t.irq = true)))

/-- 40_command_protocol.md section 1 (R118, last column): no completion changes the configuration, the sticky flags, LASTOP,
IEN or what the model holds beside the block, and none but CLR changes an operand of the host. -/
def Obligations.CompletionKeepsConfiguration : Prop :=
  ∀ (i : Instr) (s t : State), exec i s = .next t →
    t.alg = s.alg ∧ t.mode = s.mode ∧ t.digits = s.digits ∧ t.period = s.period ∧ t.rej = s.rej ∧
    t.rejcause = s.rejcause ∧ t.wrign = s.wrign ∧ t.lastop = s.lastop ∧ t.doneIe = s.doneIe ∧ t.errIe = s.errIe ∧
    t.pending = s.pending ∧ t.resp = s.resp ∧
    (i ≠ .clr → t.factor = s.factor ∧ t.keylen = s.keylen ∧ t.key = s.key ∧ t.challen = s.challen ∧ t.chal = s.chal)

/-- R263: after acceptance and a faulting completion (DONE is 0, which acceptance left), every register the command could
have written reads zero. -/
def Obligations.FaultLeavesNoPartialResult : Prop :=
  ∀ (s t : State) (i : Instr), exec i (s.accept i) = .next t → t.done = false →
    t.err = true ∧ t.codeInt = 0 ∧ (∀ k : Nat, t.codeStr.read k = 0) ∧ t.truncOffset = 0 ∧ t.truncValue = 0 ∧
    (i ≠ .trunc → t.bucket = 0 ∧ t.dlen = 0 ∧ ∀ k : Nat, t.digest.read k = 0)

/-- 40_command_protocol.md section 1 (R118): what acceptance and completion together leave in the output chain, command by command; a register marked `-` in the
rule's table is untouched and one marked `0` reads zero. -/
def Obligations.OutputsPerCommand : Prop :=
  ∀ (s t : State) (i : Instr), exec i (s.accept i) = .next t →
    (i = .gen → t.dlen = 0 ∧ t.digest = [] ∧ t.truncOffset = 0 ∧ t.truncValue = 0) ∧
    (i = .hmac → t.bucket = 0 ∧ t.truncOffset = 0 ∧ t.truncValue = 0 ∧ t.codeInt = 0 ∧ t.codeStr = []) ∧
    (i = .trunc → t.bucket = s.bucket ∧ t.dlen = s.dlen ∧ t.digest = s.digest) ∧
    (i = .quant → t.dlen = 0 ∧ t.digest = [] ∧ t.truncOffset = 0 ∧ t.truncValue = 0 ∧ t.codeInt = 0 ∧ t.codeStr = []) ∧
    (i = .clr → t.bucket = 0 ∧ t.dlen = 0 ∧ t.digest = [] ∧ t.truncOffset = 0 ∧ t.truncValue = 0 ∧ t.codeInt = 0 ∧
      t.codeStr = [] ∧ t.factor = 0 ∧ t.keylen = 0 ∧ t.key = [] ∧ t.challen = 0 ∧ t.chal = []) ∧
    (i ≠ .clr → t.factor = s.factor ∧ t.keylen = s.keylen ∧ t.key = s.key ∧ t.challen = s.challen ∧ t.chal = s.chal) ∧
    t.alg = s.alg ∧ t.mode = s.mode ∧ t.digits = s.digits ∧ t.period = s.period ∧
    t.doneIe = s.doneIe ∧ t.errIe = s.errIe

/-- R270: TRUNC with a legal digit count and a digest faults with DigestLength exactly when DLEN is above 64 or the 4-byte read
would pass the end; that cannot be with DLEN of 19 to 64, and HMAC leaves such a DLEN whenever it succeeds. -/
def Obligations.DigestLengthExactly : Prop :=
  (∀ s : State, 6 ≤ s.digits.toNat → s.digits.toNat ≤ 10 → s.dlen ≠ 0 →
    ∃ t : State, exec .trunc s = .next t ∧
      (64 < s.dlen.toNat ∨ s.dlen.toNat < (s.digest.read (s.dlen.toNat - 1)).toNat % 16 + 4 →
        t = { s with busy := false, err := true, errcode := 6 }) ∧
      (s.dlen.toNat ≤ 64 → (s.digest.read (s.dlen.toNat - 1)).toNat % 16 + 4 ≤ s.dlen.toNat →
        t.done = true ∧ t.err = s.err ∧ t.errcode = s.errcode) ∧
      (19 ≤ s.dlen.toNat → s.dlen.toNat ≤ 64 → t.done = true ∧ t.err = s.err ∧ t.errcode = s.errcode)) ∧
  (∀ s t : State, s.done = false → exec .hmac s = .next t → t.done = true → 19 ≤ t.dlen.toNat ∧ t.dlen.toNat ≤ 64)

/-- 43_codegen_quant_trunc.md section 4 (R207, the spec's own inference): EmptyDigest and DigestLength cannot come from GEN. -/
def Obligations.GenNeverEmptyOrShortDigest : Prop :=
  ∀ s t : State, s.errcode = 0 → exec .gen s = .next t → t.errcode ≠ 3 ∧ t.errcode ≠ 6

/-- 60_exceptions.md section 2 (R275, the spec's own inference): while a fault stays recorded ERRCODE names it; only a reset
or a step that clears ERR ends that. -/
def Obligations.ErrcodeNamesFirstFault : Prop :=
  ∀ (s t : State) (e : Event), Inv s → eventStep s e = .next t → s.err = true → t.err = true → t.errcode = s.errcode

/-- 60_exceptions.md section 2 (R271): a recorded fault is left only by a host write of STATUS with bit 2 set, by the
completion of CLR, or by reset. -/
def Obligations.FaultLeftByAckClrReset : Prop :=
  ∀ (s t : State) (e : Event), eventStep s e = .next t → s.err = true → t.err = false →
    (∃ v : Word, e = .host ⟨.write, 0x010, 4, v⟩ ∧ v.getLsbD 2 = true) ∨
    (e = .engine ∧ s.busy = true ∧ s.lastop = 5) ∨
    e = .reset

/-! ### Pure functions of the data path -/

/-- R141: the message is 8 bytes, the 64-bit factor most significant byte first. -/
def Obligations.MessageIsBigEndianFactor : Prop :=
  ∀ f : DWord, (message f).length = 8 ∧ be (message f) = f.toNat ∧
    ∀ i : Nat, i < 8 → (message f).getD i 0 = f.extractLsb' (56 - 8 * i) 8

/-- 41_digest_hmac.md section 2 (R144): a key longer than a block stands for its hash, and a key of at most a block stands for
itself with zeros appended up to the block. -/
def Obligations.LongKeyHashedShortKeyPadded : Prop :=
  ∀ (A : Alg) (key : List Byte) (f : DWord),
    (A.blockBytes < key.length → digestFn A key f = digestFn A (hash A key) f) ∧
    (∀ n : Nat, key.length + n ≤ A.blockBytes → digestFn A (key ++ List.replicate n 0) f = digestFn A key f)

/-- 42_sha_primitives.md section 1 (R160 to R162): the padded message begins with the message and 0x80, then zeros, and ends
with the bit length in LF bytes, fills whole blocks and no more than it must, and its blocks lose nothing of it. -/
def Obligations.PaddingFillsWholeBlocks : Prop :=
  ∀ (A : Alg) (m : List Byte),
    (m ++ [0x80]) <+: padMessage A m ∧
    (∀ i : Nat, m.length + 1 ≤ i → i + A.lengthBytes < (padMessage A m).length → (padMessage A m)[i]? = some 0) ∧
    be ((padMessage A m).drop ((padMessage A m).length - A.lengthBytes)) = 8 * m.length % 256 ^ A.lengthBytes ∧
    (padMessage A m).length % A.blockBytes = 0 ∧
    m.length + 1 + A.lengthBytes ≤ (padMessage A m).length ∧
    (padMessage A m).length < m.length + 1 + A.lengthBytes + A.blockBytes ∧
    (paddedBlocks A m).flatten = padMessage A m ∧
    ∀ b ∈ paddedBlocks A m, b.length = A.blockBytes

/-- R198: the code is below 10^digits and below 2^31, and with 10 digits it is the value itself. -/
def Obligations.CodeWithinRange : Prop :=
  ∀ (value : BitVec 31) (d : Nat),
    codeOf value d < 10 ^ d ∧ codeOf value d < 2 ^ 31 ∧
    (∃ q : Nat, value.toNat = q * 10 ^ d + codeOf value d) ∧ (d = 10 → codeOf value d = value.toNat)

/-- R199: the string has exactly `digits` characters, each an ASCII decimal digit at the place the rule gives, and written out
it is the code, left-padded with zeros, so no digit is lost; with 10 digits the first is `0`, `1` or `2`, and in CODE_STR
zeros follow up to 12. -/
def Obligations.CodeStringIsDecimal : Prop :=
  ∀ code d : Nat, code < 10 ^ d →
    (fmt code d).length = d ∧
    (∀ b ∈ fmt code d, 0x30 ≤ b.toNat ∧ b.toNat ≤ 0x39) ∧
    (∀ i : Nat, i < d → ((fmt code d).getD i 0).toNat = 0x30 + code / 10 ^ (d - 1 - i) % 10) ∧
    (fmt code d).foldl (fun n b => n * 10 + (b.toNat - 0x30)) 0 = code ∧
    (d = 10 → code < 2 ^ 31 → ((fmt code d).getD 0 0).toNat ≤ 0x32) ∧
    (d ≤ 10 → ∀ i : Nat, d ≤ i → (Memory.writeBytes [] 0 (fmt code d)).read i = 0)

/-! ### The whole machine -/

/-- 10_state.md section 6 (R47, R45): the invariant holds right after reset. -/
def Obligations.InvHoldsAtReset : Prop := Inv State.reset

/-- 10_state.md section 6 (R47, the spec's own inference): every step keeps the invariant, whatever is pending: the flags agree
with one another, the results are in range, the buffers keep their canonical form, and the outputs read zero while busy. -/
def Obligations.InvKeptByEveryStep : Prop :=
  ∀ s t : State, Inv s → step s = .next t → Inv t

/-- 43_codegen_quant_trunc.md section 4 (R206, the spec's own inference): where GEN succeeds, QUANT, the copy of its bucket
into FACTOR, HMAC and TRUNC, each accepted and completed, succeed and end with the same code, and QUANT's bucket is GEN's. -/
def Obligations.GenEqualsItsStages : Prop :=
  ∀ s tg : State, exec .gen (s.accept .gen) = .next tg → tg.done = true →
    ∃ tq th tt : State,
      exec .quant (s.accept .quant) = .next tq ∧ tq.done = true ∧ tq.bucket = tg.bucket ∧
      exec .hmac (({ tq with factor := tq.bucket } : State).accept .hmac) = .next th ∧ th.done = true ∧
      exec .trunc (th.accept .trunc) = .next tt ∧ tt.done = true ∧
      tt.codeInt = tg.codeInt ∧ ∀ i : Nat, tt.codeStr.read i = tg.codeStr.read i

/-- 95_test_vectors.md section 10 (property 5; R310, R116, R117): host accesses made while a command is in progress, in any
number and whatever they are, change nothing of what its completion leaves: results, operands, configuration, BUSY, DONE, ERR
and ERRCODE. That the engine has its turn once nothing is pending, as the last step of both runs does, is the model's choice
(log entry 1). -/
def Obligations.BusyHostAccessesChangeNoResult : Prop :=
  ∀ (s : State) (accesses : List Access), Inv s → s.busy = true → (∀ a ∈ accesses, a.off < 4096) →
    s.pending = accesses.map Event.host →
    ∃ t t' : State,
      Sys2Proof.core.run 1 { s with pending := [] } = .next t ∧
      Sys2Proof.core.run (accesses.length + 1) s = .next t' ∧
      t = { t' with
        rej := t.rej, rejcause := t.rejcause, wrign := t.wrign, doneIe := t.doneIe, errIe := t.errIe,
        resp := t.resp }

/-- 40_command_protocol.md section 1 (R119): an accepted command completes. With any number of host accesses ahead of the engine's turn, BUSY is 0 after them and
that one turn. That the engine has its turn once nothing is pending is the model's form of weak fairness (log entry 1). -/
def Obligations.AcceptedCommandCompletes : Prop :=
  ∀ (s : State) (i : Instr) (accesses : List Access), s.busy = true → s.lastop = i.opcode →
    (∀ a ∈ accesses, a.off < 4096) → s.pending = accesses.map Event.host →
    ∃ t : State, Sys2Proof.core.run (accesses.length + 1) s = .next t ∧ t.busy = false

/-- R117 (with the reads of 30_encoding.md R94): what an accepted command's completion gives is a function of the registers it
reads. Two states that agree on those, the key on its first KEYLEN bytes and the digest on its first DLEN, complete with the
same results or the same fault, whatever else differs. -/
def Obligations.ResultDependsOnOperandsOnly : Prop :=
  ∀ s s' : State,
    let sameKey : Prop := s.alg = s'.alg ∧ s.factor = s'.factor ∧ s.keylen = s'.keylen ∧
      ∀ j : Nat, j < s.keylen.toNat → s.key.read j = s'.key.read j
    let samePeriod : Prop := s.mode = s'.mode ∧ (s.mode = 0 → s.period = s'.period)
    let sameDigest : Prop := s.dlen = s'.dlen ∧ ∀ j : Nat, j < s.dlen.toNat → s.digest.read j = s'.digest.read j
    let sameOutcome (t t' : State) : Prop :=
      t.done = t'.done ∧ (t.done = false → t.err = true ∧ t'.err = true ∧ t.errcode = t'.errcode)
    let sameCode (t t' : State) : Prop :=
      t.truncOffset = t'.truncOffset ∧ t.truncValue = t'.truncValue ∧ t.codeInt = t'.codeInt ∧ t.codeStr = t'.codeStr
    let sameChain (t t' : State) : Prop := t.bucket = t'.bucket ∧ t.dlen = t'.dlen ∧ t.digest = t'.digest
    let sameResult (i : Instr) : Prop := ∃ t t' : State,
      exec i (s.accept i) = .next t ∧ exec i (s'.accept i) = .next t' ∧ sameOutcome t t' ∧ sameCode t t' ∧
        (i ≠ .trunc → sameChain t t')
    (sameKey → samePeriod → s.digits = s'.digits → sameResult .gen) ∧
    (sameKey → sameResult .hmac) ∧
    (sameDigest → s.digits = s'.digits → sameResult .trunc) ∧
    (samePeriod → s.factor = s'.factor → sameResult .quant) ∧
    sameResult .clr

/-- R149: the challenge changes no result and no fault of any command; no command but CLR changes it. -/
def Obligations.ChallengeChangesNoResult : Prop :=
  ∀ (i : Instr) (s : State) (c : Memory) (n : BitVec 16),
    ∃ t t' : State, exec i s = .next t ∧ exec i { s with chal := c, challen := n } = .next t' ∧
      t' = { t with chal := t'.chal, challen := t'.challen } ∧ (i ≠ .clr → t'.chal = c ∧ t'.challen = n) ∧
      (i = .clr → t'.challen = 0 ∧ ∀ k : Nat, t'.chal.read k = 0)

/-- R110: reset leaves the block idle; idle becomes busy only by the acceptance of a command, a host write of a legal word to
CMD; busy becomes idle only by the engine's completion or by reset. -/
def Obligations.BusyChangesOnlyByProtocol : Prop :=
  State.reset.busy = false ∧
  ∀ (s t : State) (e : Event), eventStep s e = .next t →
    (s.busy = false → t.busy = true →
      ∃ (v : Word) (i : Instr), e = .host ⟨.write, 0x00C, 4, v⟩ ∧ decodeWord v = .ok i ∧ (s.err = false ∨ i = .clr) ∧
        t.lastop = i.opcode) ∧
    (s.busy = true → t.busy = false → e = .engine ∨ e = .reset)

/-- 10_state.md section 4 (R30) and 70_reset_and_hazards.md section 2 (R309): KEY changes only by an idle host write to a word
of KEY, by the completion of CLR, and by reset. -/
def Obligations.KeyChangesOnlyByHostClrReset : Prop :=
  ∀ (s t : State) (e : Event), eventStep s e = .next t → t.key ≠ s.key →
    (∃ (off : Nat) (v : Word), e = .host ⟨.write, off, 4, v⟩ ∧ 0x100 ≤ off ∧ off < 0x200 ∧ s.busy = false) ∨
    (e = .engine ∧ s.busy = true ∧ s.lastop = 5) ∨
    e = .reset

/-- 70_reset_and_hazards.md section 2 (R306): CFG and PERIOD change only by an idle host write to them and by reset, so the
configuration is fixed while a command is in progress. -/
def Obligations.ConfigurationChangesOnlyByHostReset : Prop :=
  ∀ (s t : State) (e : Event), eventStep s e = .next t →
    ¬ (t.alg = s.alg ∧ t.mode = s.mode ∧ t.digits = s.digits ∧ t.period = s.period) →
    (∃ (off : Nat) (v : Word), e = .host ⟨.write, off, 4, v⟩ ∧ (off = 0x004 ∨ off = 0x008) ∧ s.busy = false) ∨
    e = .reset

/-- 10_state.md section 6 (R47 (d), the spec's own inference): in a state of the invariant no step faults; the machine's one
fault is out of reach. -/
def Obligations.NoFaultUnderInvariant : Prop :=
  ∀ s : State, Inv s → ∀ f : Fault, step s ≠ .fault f

/-! ### The hash and HMAC rules the spec supplies from general knowledge (log entry 7) -/

/-- 41_digest_hmac.md section 2 (R143 to R147): the HMAC construction. `k0` is the key, or its hash where it is longer than a
block, with zeros up to the block; the digest is the hash of `k0` under 0x5C followed by the hash of `k0` under 0x36 followed
by the 8 message bytes. Block and digest lengths are those of the table of R143. -/
def Obligations.HmacConstruction : Prop :=
  (Alg.sha1.blockBytes = 64 ∧ Alg.sha1.digestBytes = 20 ∧ Alg.sha256.blockBytes = 64 ∧ Alg.sha256.digestBytes = 32 ∧
    Alg.sha512.blockBytes = 128 ∧ Alg.sha512.digestBytes = 64) ∧
  ∀ (A : Alg) (key : List Byte) (f : DWord),
    (hash A key).length = A.digestBytes ∧
    ∃ k0 : List Byte,
      k0.length = A.blockBytes ∧
      (∀ i : Nat, i < A.blockBytes → k0[i]? = some (
        if A.blockBytes < key.length then (if i < A.digestBytes then (hash A key).getD i 0 else 0)
        else if i < key.length then key.getD i 0 else 0)) ∧
      digestFn A key f =
        hash A (k0.map (fun b => b ^^^ 0x5C) ++
          hash A (k0.map (fun b => b ^^^ 0x36) ++ (List.range 8).map (fun i => f.extractLsb' (56 - 8 * i) 8)))

/-- 42_sha_primitives.md section 5 (R178): the known answers of the three hash functions, on the empty message and "abc". -/
def Obligations.HashKnownAnswers : Prop :=
  be (hash .sha1 []) = 0xda39a3ee5e6b4b0d3255bfef95601890afd80709 ∧
  be (hash .sha256 []) = 0xe3b0c44298fc1c149afbf4c8996fb92427ae41e4649b934ca495991b7852b855 ∧
  be (hash .sha512 []) =
    0xcf83e1357eefb8bdf1542850d66d8007d620e4050b5715dc83f4a921d36ce9ce47d0d13c5d85f2b0ff8318d2877eec2f63b931bd47417a81a538327af927da3e ∧
  be (hash .sha1 [0x61, 0x62, 0x63]) = 0xa9993e364706816aba3e25717850c26c9cd0d89d ∧
  be (hash .sha256 [0x61, 0x62, 0x63]) = 0xba7816bf8f01cfea414140de5dae2223b00361a396177a9cb410ff61f20015ad ∧
  be (hash .sha512 [0x61, 0x62, 0x63]) =
    0xddaf35a193617abacc417349ae20413112e6fa4e89a97ea20a9eeee64b55d39a2192992a274fc1a836ba3c23a3feebbd454d4423643ce80e2a9ac94fa54ca49f
end

