-- ==== Sys2Proof/Laws/State.lean ====
section
/-! SUPPORT. One lemma per field per named update of State, each true by rfl, so that no proof unfolds a record update. -/

namespace Sys2Proof.Machine

/-! ### `State.reject` -/

@[simp] theorem State.reject_alg (s : State) (c : RejectCause) : (s.reject c).alg = s.alg := rfl
@[simp] theorem State.reject_mode (s : State) (c : RejectCause) : (s.reject c).mode = s.mode := rfl
@[simp] theorem State.reject_digits (s : State) (c : RejectCause) : (s.reject c).digits = s.digits := rfl
@[simp] theorem State.reject_period (s : State) (c : RejectCause) : (s.reject c).period = s.period := rfl
@[simp] theorem State.reject_busy (s : State) (c : RejectCause) : (s.reject c).busy = s.busy := rfl
@[simp] theorem State.reject_done (s : State) (c : RejectCause) : (s.reject c).done = s.done := rfl
@[simp] theorem State.reject_err (s : State) (c : RejectCause) : (s.reject c).err = s.err := rfl
@[simp] theorem State.reject_rej (s : State) (c : RejectCause) : (s.reject c).rej = true := rfl
@[simp] theorem State.reject_wrign (s : State) (c : RejectCause) : (s.reject c).wrign = s.wrign := rfl
@[simp] theorem State.reject_errcode (s : State) (c : RejectCause) : (s.reject c).errcode = s.errcode := rfl
@[simp] theorem State.reject_lastop (s : State) (c : RejectCause) : (s.reject c).lastop = s.lastop := rfl
@[simp] theorem State.reject_rejcause (s : State) (c : RejectCause) : (s.reject c).rejcause = c.code := rfl
@[simp] theorem State.reject_doneIe (s : State) (c : RejectCause) : (s.reject c).doneIe = s.doneIe := rfl
@[simp] theorem State.reject_errIe (s : State) (c : RejectCause) : (s.reject c).errIe = s.errIe := rfl
@[simp] theorem State.reject_factor (s : State) (c : RejectCause) : (s.reject c).factor = s.factor := rfl
@[simp] theorem State.reject_keylen (s : State) (c : RejectCause) : (s.reject c).keylen = s.keylen := rfl
@[simp] theorem State.reject_challen (s : State) (c : RejectCause) : (s.reject c).challen = s.challen := rfl
@[simp] theorem State.reject_bucket (s : State) (c : RejectCause) : (s.reject c).bucket = s.bucket := rfl
@[simp] theorem State.reject_dlen (s : State) (c : RejectCause) : (s.reject c).dlen = s.dlen := rfl
@[simp] theorem State.reject_truncOffset (s : State) (c : RejectCause) : (s.reject c).truncOffset = s.truncOffset := rfl
@[simp] theorem State.reject_truncValue (s : State) (c : RejectCause) : (s.reject c).truncValue = s.truncValue := rfl
@[simp] theorem State.reject_codeInt (s : State) (c : RejectCause) : (s.reject c).codeInt = s.codeInt := rfl
@[simp] theorem State.reject_codeStr (s : State) (c : RejectCause) : (s.reject c).codeStr = s.codeStr := rfl
@[simp] theorem State.reject_digest (s : State) (c : RejectCause) : (s.reject c).digest = s.digest := rfl
@[simp] theorem State.reject_chal (s : State) (c : RejectCause) : (s.reject c).chal = s.chal := rfl
@[simp] theorem State.reject_key (s : State) (c : RejectCause) : (s.reject c).key = s.key := rfl
@[simp] theorem State.reject_pending (s : State) (c : RejectCause) : (s.reject c).pending = s.pending := rfl
@[simp] theorem State.reject_resp (s : State) (c : RejectCause) : (s.reject c).resp = s.resp := rfl

/-! ### `State.ignoreWrite` -/

@[simp] theorem State.ignoreWrite_alg (s : State) : s.ignoreWrite.alg = s.alg := rfl
@[simp] theorem State.ignoreWrite_mode (s : State) : s.ignoreWrite.mode = s.mode := rfl
@[simp] theorem State.ignoreWrite_digits (s : State) : s.ignoreWrite.digits = s.digits := rfl
@[simp] theorem State.ignoreWrite_period (s : State) : s.ignoreWrite.period = s.period := rfl
@[simp] theorem State.ignoreWrite_busy (s : State) : s.ignoreWrite.busy = s.busy := rfl
@[simp] theorem State.ignoreWrite_done (s : State) : s.ignoreWrite.done = s.done := rfl
@[simp] theorem State.ignoreWrite_err (s : State) : s.ignoreWrite.err = s.err := rfl
@[simp] theorem State.ignoreWrite_rej (s : State) : s.ignoreWrite.rej = s.rej := rfl
@[simp] theorem State.ignoreWrite_wrign (s : State) : s.ignoreWrite.wrign = true := rfl
@[simp] theorem State.ignoreWrite_errcode (s : State) : s.ignoreWrite.errcode = s.errcode := rfl
@[simp] theorem State.ignoreWrite_lastop (s : State) : s.ignoreWrite.lastop = s.lastop := rfl
@[simp] theorem State.ignoreWrite_rejcause (s : State) : s.ignoreWrite.rejcause = s.rejcause := rfl
@[simp] theorem State.ignoreWrite_doneIe (s : State) : s.ignoreWrite.doneIe = s.doneIe := rfl
@[simp] theorem State.ignoreWrite_errIe (s : State) : s.ignoreWrite.errIe = s.errIe := rfl
@[simp] theorem State.ignoreWrite_factor (s : State) : s.ignoreWrite.factor = s.factor := rfl
@[simp] theorem State.ignoreWrite_keylen (s : State) : s.ignoreWrite.keylen = s.keylen := rfl
@[simp] theorem State.ignoreWrite_challen (s : State) : s.ignoreWrite.challen = s.challen := rfl
@[simp] theorem State.ignoreWrite_bucket (s : State) : s.ignoreWrite.bucket = s.bucket := rfl
@[simp] theorem State.ignoreWrite_dlen (s : State) : s.ignoreWrite.dlen = s.dlen := rfl
@[simp] theorem State.ignoreWrite_truncOffset (s : State) : s.ignoreWrite.truncOffset = s.truncOffset := rfl
@[simp] theorem State.ignoreWrite_truncValue (s : State) : s.ignoreWrite.truncValue = s.truncValue := rfl
@[simp] theorem State.ignoreWrite_codeInt (s : State) : s.ignoreWrite.codeInt = s.codeInt := rfl
@[simp] theorem State.ignoreWrite_codeStr (s : State) : s.ignoreWrite.codeStr = s.codeStr := rfl
@[simp] theorem State.ignoreWrite_digest (s : State) : s.ignoreWrite.digest = s.digest := rfl
@[simp] theorem State.ignoreWrite_chal (s : State) : s.ignoreWrite.chal = s.chal := rfl
@[simp] theorem State.ignoreWrite_key (s : State) : s.ignoreWrite.key = s.key := rfl
@[simp] theorem State.ignoreWrite_pending (s : State) : s.ignoreWrite.pending = s.pending := rfl
@[simp] theorem State.ignoreWrite_resp (s : State) : s.ignoreWrite.resp = s.resp := rfl

/-! ### `State.clearTruncOutputs` -/

@[simp] theorem State.clearTruncOutputs_alg (s : State) : s.clearTruncOutputs.alg = s.alg := rfl
@[simp] theorem State.clearTruncOutputs_mode (s : State) : s.clearTruncOutputs.mode = s.mode := rfl
@[simp] theorem State.clearTruncOutputs_digits (s : State) : s.clearTruncOutputs.digits = s.digits := rfl
@[simp] theorem State.clearTruncOutputs_period (s : State) : s.clearTruncOutputs.period = s.period := rfl
@[simp] theorem State.clearTruncOutputs_busy (s : State) : s.clearTruncOutputs.busy = s.busy := rfl
@[simp] theorem State.clearTruncOutputs_done (s : State) : s.clearTruncOutputs.done = s.done := rfl
@[simp] theorem State.clearTruncOutputs_err (s : State) : s.clearTruncOutputs.err = s.err := rfl
@[simp] theorem State.clearTruncOutputs_rej (s : State) : s.clearTruncOutputs.rej = s.rej := rfl
@[simp] theorem State.clearTruncOutputs_wrign (s : State) : s.clearTruncOutputs.wrign = s.wrign := rfl
@[simp] theorem State.clearTruncOutputs_errcode (s : State) : s.clearTruncOutputs.errcode = s.errcode := rfl
@[simp] theorem State.clearTruncOutputs_lastop (s : State) : s.clearTruncOutputs.lastop = s.lastop := rfl
@[simp] theorem State.clearTruncOutputs_rejcause (s : State) : s.clearTruncOutputs.rejcause = s.rejcause := rfl
@[simp] theorem State.clearTruncOutputs_doneIe (s : State) : s.clearTruncOutputs.doneIe = s.doneIe := rfl
@[simp] theorem State.clearTruncOutputs_errIe (s : State) : s.clearTruncOutputs.errIe = s.errIe := rfl
@[simp] theorem State.clearTruncOutputs_factor (s : State) : s.clearTruncOutputs.factor = s.factor := rfl
@[simp] theorem State.clearTruncOutputs_keylen (s : State) : s.clearTruncOutputs.keylen = s.keylen := rfl
@[simp] theorem State.clearTruncOutputs_challen (s : State) : s.clearTruncOutputs.challen = s.challen := rfl
@[simp] theorem State.clearTruncOutputs_bucket (s : State) : s.clearTruncOutputs.bucket = s.bucket := rfl
@[simp] theorem State.clearTruncOutputs_dlen (s : State) : s.clearTruncOutputs.dlen = s.dlen := rfl
@[simp] theorem State.clearTruncOutputs_truncOffset (s : State) : s.clearTruncOutputs.truncOffset = 0 := rfl
@[simp] theorem State.clearTruncOutputs_truncValue (s : State) : s.clearTruncOutputs.truncValue = 0 := rfl
@[simp] theorem State.clearTruncOutputs_codeInt (s : State) : s.clearTruncOutputs.codeInt = 0 := rfl
@[simp] theorem State.clearTruncOutputs_codeStr (s : State) : s.clearTruncOutputs.codeStr = [] := rfl
@[simp] theorem State.clearTruncOutputs_digest (s : State) : s.clearTruncOutputs.digest = s.digest := rfl
@[simp] theorem State.clearTruncOutputs_chal (s : State) : s.clearTruncOutputs.chal = s.chal := rfl
@[simp] theorem State.clearTruncOutputs_key (s : State) : s.clearTruncOutputs.key = s.key := rfl
@[simp] theorem State.clearTruncOutputs_pending (s : State) : s.clearTruncOutputs.pending = s.pending := rfl
@[simp] theorem State.clearTruncOutputs_resp (s : State) : s.clearTruncOutputs.resp = s.resp := rfl

/-! ### `State.clearOutputs` -/

@[simp] theorem State.clearOutputs_alg (s : State) : s.clearOutputs.alg = s.alg := rfl
@[simp] theorem State.clearOutputs_mode (s : State) : s.clearOutputs.mode = s.mode := rfl
@[simp] theorem State.clearOutputs_digits (s : State) : s.clearOutputs.digits = s.digits := rfl
@[simp] theorem State.clearOutputs_period (s : State) : s.clearOutputs.period = s.period := rfl
@[simp] theorem State.clearOutputs_busy (s : State) : s.clearOutputs.busy = s.busy := rfl
@[simp] theorem State.clearOutputs_done (s : State) : s.clearOutputs.done = s.done := rfl
@[simp] theorem State.clearOutputs_err (s : State) : s.clearOutputs.err = s.err := rfl
@[simp] theorem State.clearOutputs_rej (s : State) : s.clearOutputs.rej = s.rej := rfl
@[simp] theorem State.clearOutputs_wrign (s : State) : s.clearOutputs.wrign = s.wrign := rfl
@[simp] theorem State.clearOutputs_errcode (s : State) : s.clearOutputs.errcode = s.errcode := rfl
@[simp] theorem State.clearOutputs_lastop (s : State) : s.clearOutputs.lastop = s.lastop := rfl
@[simp] theorem State.clearOutputs_rejcause (s : State) : s.clearOutputs.rejcause = s.rejcause := rfl
@[simp] theorem State.clearOutputs_doneIe (s : State) : s.clearOutputs.doneIe = s.doneIe := rfl
@[simp] theorem State.clearOutputs_errIe (s : State) : s.clearOutputs.errIe = s.errIe := rfl
@[simp] theorem State.clearOutputs_factor (s : State) : s.clearOutputs.factor = s.factor := rfl
@[simp] theorem State.clearOutputs_keylen (s : State) : s.clearOutputs.keylen = s.keylen := rfl
@[simp] theorem State.clearOutputs_challen (s : State) : s.clearOutputs.challen = s.challen := rfl
@[simp] theorem State.clearOutputs_bucket (s : State) : s.clearOutputs.bucket = 0 := rfl
@[simp] theorem State.clearOutputs_dlen (s : State) : s.clearOutputs.dlen = 0 := rfl
@[simp] theorem State.clearOutputs_truncOffset (s : State) : s.clearOutputs.truncOffset = 0 := rfl
@[simp] theorem State.clearOutputs_truncValue (s : State) : s.clearOutputs.truncValue = 0 := rfl
@[simp] theorem State.clearOutputs_codeInt (s : State) : s.clearOutputs.codeInt = 0 := rfl
@[simp] theorem State.clearOutputs_codeStr (s : State) : s.clearOutputs.codeStr = [] := rfl
@[simp] theorem State.clearOutputs_digest (s : State) : s.clearOutputs.digest = [] := rfl
@[simp] theorem State.clearOutputs_chal (s : State) : s.clearOutputs.chal = s.chal := rfl
@[simp] theorem State.clearOutputs_key (s : State) : s.clearOutputs.key = s.key := rfl
@[simp] theorem State.clearOutputs_pending (s : State) : s.clearOutputs.pending = s.pending := rfl
@[simp] theorem State.clearOutputs_resp (s : State) : s.clearOutputs.resp = s.resp := rfl

/-! ### `State.clearOperands` -/

@[simp] theorem State.clearOperands_alg (s : State) : s.clearOperands.alg = s.alg := rfl
@[simp] theorem State.clearOperands_mode (s : State) : s.clearOperands.mode = s.mode := rfl
@[simp] theorem State.clearOperands_digits (s : State) : s.clearOperands.digits = s.digits := rfl
@[simp] theorem State.clearOperands_period (s : State) : s.clearOperands.period = s.period := rfl
@[simp] theorem State.clearOperands_busy (s : State) : s.clearOperands.busy = s.busy := rfl
@[simp] theorem State.clearOperands_done (s : State) : s.clearOperands.done = s.done := rfl
@[simp] theorem State.clearOperands_err (s : State) : s.clearOperands.err = s.err := rfl
@[simp] theorem State.clearOperands_rej (s : State) : s.clearOperands.rej = s.rej := rfl
@[simp] theorem State.clearOperands_wrign (s : State) : s.clearOperands.wrign = s.wrign := rfl
@[simp] theorem State.clearOperands_errcode (s : State) : s.clearOperands.errcode = s.errcode := rfl
@[simp] theorem State.clearOperands_lastop (s : State) : s.clearOperands.lastop = s.lastop := rfl
@[simp] theorem State.clearOperands_rejcause (s : State) : s.clearOperands.rejcause = s.rejcause := rfl
@[simp] theorem State.clearOperands_doneIe (s : State) : s.clearOperands.doneIe = s.doneIe := rfl
@[simp] theorem State.clearOperands_errIe (s : State) : s.clearOperands.errIe = s.errIe := rfl
@[simp] theorem State.clearOperands_factor (s : State) : s.clearOperands.factor = 0 := rfl
@[simp] theorem State.clearOperands_keylen (s : State) : s.clearOperands.keylen = 0 := rfl
@[simp] theorem State.clearOperands_challen (s : State) : s.clearOperands.challen = 0 := rfl
@[simp] theorem State.clearOperands_bucket (s : State) : s.clearOperands.bucket = s.bucket := rfl
@[simp] theorem State.clearOperands_dlen (s : State) : s.clearOperands.dlen = s.dlen := rfl
@[simp] theorem State.clearOperands_truncOffset (s : State) : s.clearOperands.truncOffset = s.truncOffset := rfl
@[simp] theorem State.clearOperands_truncValue (s : State) : s.clearOperands.truncValue = s.truncValue := rfl
@[simp] theorem State.clearOperands_codeInt (s : State) : s.clearOperands.codeInt = s.codeInt := rfl
@[simp] theorem State.clearOperands_codeStr (s : State) : s.clearOperands.codeStr = s.codeStr := rfl
@[simp] theorem State.clearOperands_digest (s : State) : s.clearOperands.digest = s.digest := rfl
@[simp] theorem State.clearOperands_chal (s : State) : s.clearOperands.chal = [] := rfl
@[simp] theorem State.clearOperands_key (s : State) : s.clearOperands.key = [] := rfl
@[simp] theorem State.clearOperands_pending (s : State) : s.clearOperands.pending = s.pending := rfl
@[simp] theorem State.clearOperands_resp (s : State) : s.clearOperands.resp = s.resp := rfl

/-! ### `State.startCommand` -/

@[simp] theorem State.startCommand_alg (s : State) (i : Instr) : (s.startCommand i).alg = s.alg := rfl
@[simp] theorem State.startCommand_mode (s : State) (i : Instr) : (s.startCommand i).mode = s.mode := rfl
@[simp] theorem State.startCommand_digits (s : State) (i : Instr) : (s.startCommand i).digits = s.digits := rfl
@[simp] theorem State.startCommand_period (s : State) (i : Instr) : (s.startCommand i).period = s.period := rfl
@[simp] theorem State.startCommand_busy (s : State) (i : Instr) : (s.startCommand i).busy = true := rfl
@[simp] theorem State.startCommand_done (s : State) (i : Instr) : (s.startCommand i).done = false := rfl
@[simp] theorem State.startCommand_err (s : State) (i : Instr) : (s.startCommand i).err = s.err := rfl
@[simp] theorem State.startCommand_rej (s : State) (i : Instr) : (s.startCommand i).rej = s.rej := rfl
@[simp] theorem State.startCommand_wrign (s : State) (i : Instr) : (s.startCommand i).wrign = s.wrign := rfl
@[simp] theorem State.startCommand_errcode (s : State) (i : Instr) : (s.startCommand i).errcode = s.errcode := rfl
@[simp] theorem State.startCommand_lastop (s : State) (i : Instr) : (s.startCommand i).lastop = i.opcode := rfl
@[simp] theorem State.startCommand_rejcause (s : State) (i : Instr) : (s.startCommand i).rejcause = s.rejcause := rfl
@[simp] theorem State.startCommand_doneIe (s : State) (i : Instr) : (s.startCommand i).doneIe = s.doneIe := rfl
@[simp] theorem State.startCommand_errIe (s : State) (i : Instr) : (s.startCommand i).errIe = s.errIe := rfl
@[simp] theorem State.startCommand_factor (s : State) (i : Instr) : (s.startCommand i).factor = s.factor := rfl
@[simp] theorem State.startCommand_keylen (s : State) (i : Instr) : (s.startCommand i).keylen = s.keylen := rfl
@[simp] theorem State.startCommand_challen (s : State) (i : Instr) : (s.startCommand i).challen = s.challen := rfl
@[simp] theorem State.startCommand_bucket (s : State) (i : Instr) : (s.startCommand i).bucket = s.bucket := rfl
@[simp] theorem State.startCommand_dlen (s : State) (i : Instr) : (s.startCommand i).dlen = s.dlen := rfl
@[simp] theorem State.startCommand_truncOffset (s : State) (i : Instr) : (s.startCommand i).truncOffset = s.truncOffset := rfl
@[simp] theorem State.startCommand_truncValue (s : State) (i : Instr) : (s.startCommand i).truncValue = s.truncValue := rfl
@[simp] theorem State.startCommand_codeInt (s : State) (i : Instr) : (s.startCommand i).codeInt = s.codeInt := rfl
@[simp] theorem State.startCommand_codeStr (s : State) (i : Instr) : (s.startCommand i).codeStr = s.codeStr := rfl
@[simp] theorem State.startCommand_digest (s : State) (i : Instr) : (s.startCommand i).digest = s.digest := rfl
@[simp] theorem State.startCommand_chal (s : State) (i : Instr) : (s.startCommand i).chal = s.chal := rfl
@[simp] theorem State.startCommand_key (s : State) (i : Instr) : (s.startCommand i).key = s.key := rfl
@[simp] theorem State.startCommand_pending (s : State) (i : Instr) : (s.startCommand i).pending = s.pending := rfl
@[simp] theorem State.startCommand_resp (s : State) (i : Instr) : (s.startCommand i).resp = s.resp := rfl

/-! ### `State.raiseFault` -/

@[simp] theorem State.raiseFault_alg (s : State) (f : FaultCode) : (s.raiseFault f).alg = s.alg := rfl
@[simp] theorem State.raiseFault_mode (s : State) (f : FaultCode) : (s.raiseFault f).mode = s.mode := rfl
@[simp] theorem State.raiseFault_digits (s : State) (f : FaultCode) : (s.raiseFault f).digits = s.digits := rfl
@[simp] theorem State.raiseFault_period (s : State) (f : FaultCode) : (s.raiseFault f).period = s.period := rfl
@[simp] theorem State.raiseFault_busy (s : State) (f : FaultCode) : (s.raiseFault f).busy = false := rfl
@[simp] theorem State.raiseFault_done (s : State) (f : FaultCode) : (s.raiseFault f).done = s.done := rfl
@[simp] theorem State.raiseFault_err (s : State) (f : FaultCode) : (s.raiseFault f).err = true := rfl
@[simp] theorem State.raiseFault_rej (s : State) (f : FaultCode) : (s.raiseFault f).rej = s.rej := rfl
@[simp] theorem State.raiseFault_wrign (s : State) (f : FaultCode) : (s.raiseFault f).wrign = s.wrign := rfl
@[simp] theorem State.raiseFault_errcode (s : State) (f : FaultCode) : (s.raiseFault f).errcode = f.code := rfl
@[simp] theorem State.raiseFault_lastop (s : State) (f : FaultCode) : (s.raiseFault f).lastop = s.lastop := rfl
@[simp] theorem State.raiseFault_rejcause (s : State) (f : FaultCode) : (s.raiseFault f).rejcause = s.rejcause := rfl
@[simp] theorem State.raiseFault_doneIe (s : State) (f : FaultCode) : (s.raiseFault f).doneIe = s.doneIe := rfl
@[simp] theorem State.raiseFault_errIe (s : State) (f : FaultCode) : (s.raiseFault f).errIe = s.errIe := rfl
@[simp] theorem State.raiseFault_factor (s : State) (f : FaultCode) : (s.raiseFault f).factor = s.factor := rfl
@[simp] theorem State.raiseFault_keylen (s : State) (f : FaultCode) : (s.raiseFault f).keylen = s.keylen := rfl
@[simp] theorem State.raiseFault_challen (s : State) (f : FaultCode) : (s.raiseFault f).challen = s.challen := rfl
@[simp] theorem State.raiseFault_bucket (s : State) (f : FaultCode) : (s.raiseFault f).bucket = s.bucket := rfl
@[simp] theorem State.raiseFault_dlen (s : State) (f : FaultCode) : (s.raiseFault f).dlen = s.dlen := rfl
@[simp] theorem State.raiseFault_truncOffset (s : State) (f : FaultCode) : (s.raiseFault f).truncOffset = s.truncOffset := rfl
@[simp] theorem State.raiseFault_truncValue (s : State) (f : FaultCode) : (s.raiseFault f).truncValue = s.truncValue := rfl
@[simp] theorem State.raiseFault_codeInt (s : State) (f : FaultCode) : (s.raiseFault f).codeInt = s.codeInt := rfl
@[simp] theorem State.raiseFault_codeStr (s : State) (f : FaultCode) : (s.raiseFault f).codeStr = s.codeStr := rfl
@[simp] theorem State.raiseFault_digest (s : State) (f : FaultCode) : (s.raiseFault f).digest = s.digest := rfl
@[simp] theorem State.raiseFault_chal (s : State) (f : FaultCode) : (s.raiseFault f).chal = s.chal := rfl
@[simp] theorem State.raiseFault_key (s : State) (f : FaultCode) : (s.raiseFault f).key = s.key := rfl
@[simp] theorem State.raiseFault_pending (s : State) (f : FaultCode) : (s.raiseFault f).pending = s.pending := rfl
@[simp] theorem State.raiseFault_resp (s : State) (f : FaultCode) : (s.raiseFault f).resp = s.resp := rfl

/-! ### `State.ackErr` -/

@[simp] theorem State.ackErr_alg (s : State) : s.ackErr.alg = s.alg := rfl
@[simp] theorem State.ackErr_mode (s : State) : s.ackErr.mode = s.mode := rfl
@[simp] theorem State.ackErr_digits (s : State) : s.ackErr.digits = s.digits := rfl
@[simp] theorem State.ackErr_period (s : State) : s.ackErr.period = s.period := rfl
@[simp] theorem State.ackErr_busy (s : State) : s.ackErr.busy = s.busy := rfl
@[simp] theorem State.ackErr_done (s : State) : s.ackErr.done = s.done := rfl
@[simp] theorem State.ackErr_err (s : State) : s.ackErr.err = false := rfl
@[simp] theorem State.ackErr_rej (s : State) : s.ackErr.rej = s.rej := rfl
@[simp] theorem State.ackErr_wrign (s : State) : s.ackErr.wrign = s.wrign := rfl
@[simp] theorem State.ackErr_errcode (s : State) : s.ackErr.errcode = 0 := rfl
@[simp] theorem State.ackErr_lastop (s : State) : s.ackErr.lastop = s.lastop := rfl
@[simp] theorem State.ackErr_rejcause (s : State) : s.ackErr.rejcause = s.rejcause := rfl
@[simp] theorem State.ackErr_doneIe (s : State) : s.ackErr.doneIe = s.doneIe := rfl
@[simp] theorem State.ackErr_errIe (s : State) : s.ackErr.errIe = s.errIe := rfl
@[simp] theorem State.ackErr_factor (s : State) : s.ackErr.factor = s.factor := rfl
@[simp] theorem State.ackErr_keylen (s : State) : s.ackErr.keylen = s.keylen := rfl
@[simp] theorem State.ackErr_challen (s : State) : s.ackErr.challen = s.challen := rfl
@[simp] theorem State.ackErr_bucket (s : State) : s.ackErr.bucket = s.bucket := rfl
@[simp] theorem State.ackErr_dlen (s : State) : s.ackErr.dlen = s.dlen := rfl
@[simp] theorem State.ackErr_truncOffset (s : State) : s.ackErr.truncOffset = s.truncOffset := rfl
@[simp] theorem State.ackErr_truncValue (s : State) : s.ackErr.truncValue = s.truncValue := rfl
@[simp] theorem State.ackErr_codeInt (s : State) : s.ackErr.codeInt = s.codeInt := rfl
@[simp] theorem State.ackErr_codeStr (s : State) : s.ackErr.codeStr = s.codeStr := rfl
@[simp] theorem State.ackErr_digest (s : State) : s.ackErr.digest = s.digest := rfl
@[simp] theorem State.ackErr_chal (s : State) : s.ackErr.chal = s.chal := rfl
@[simp] theorem State.ackErr_key (s : State) : s.ackErr.key = s.key := rfl
@[simp] theorem State.ackErr_pending (s : State) : s.ackErr.pending = s.pending := rfl
@[simp] theorem State.ackErr_resp (s : State) : s.ackErr.resp = s.resp := rfl

/-! ### `State.finishOk` -/

@[simp] theorem State.finishOk_alg (s : State) : s.finishOk.alg = s.alg := rfl
@[simp] theorem State.finishOk_mode (s : State) : s.finishOk.mode = s.mode := rfl
@[simp] theorem State.finishOk_digits (s : State) : s.finishOk.digits = s.digits := rfl
@[simp] theorem State.finishOk_period (s : State) : s.finishOk.period = s.period := rfl
@[simp] theorem State.finishOk_busy (s : State) : s.finishOk.busy = false := rfl
@[simp] theorem State.finishOk_done (s : State) : s.finishOk.done = true := rfl
@[simp] theorem State.finishOk_err (s : State) : s.finishOk.err = s.err := rfl
@[simp] theorem State.finishOk_rej (s : State) : s.finishOk.rej = s.rej := rfl
@[simp] theorem State.finishOk_wrign (s : State) : s.finishOk.wrign = s.wrign := rfl
@[simp] theorem State.finishOk_errcode (s : State) : s.finishOk.errcode = s.errcode := rfl
@[simp] theorem State.finishOk_lastop (s : State) : s.finishOk.lastop = s.lastop := rfl
@[simp] theorem State.finishOk_rejcause (s : State) : s.finishOk.rejcause = s.rejcause := rfl
@[simp] theorem State.finishOk_doneIe (s : State) : s.finishOk.doneIe = s.doneIe := rfl
@[simp] theorem State.finishOk_errIe (s : State) : s.finishOk.errIe = s.errIe := rfl
@[simp] theorem State.finishOk_factor (s : State) : s.finishOk.factor = s.factor := rfl
@[simp] theorem State.finishOk_keylen (s : State) : s.finishOk.keylen = s.keylen := rfl
@[simp] theorem State.finishOk_challen (s : State) : s.finishOk.challen = s.challen := rfl
@[simp] theorem State.finishOk_bucket (s : State) : s.finishOk.bucket = s.bucket := rfl
@[simp] theorem State.finishOk_dlen (s : State) : s.finishOk.dlen = s.dlen := rfl
@[simp] theorem State.finishOk_truncOffset (s : State) : s.finishOk.truncOffset = s.truncOffset := rfl
@[simp] theorem State.finishOk_truncValue (s : State) : s.finishOk.truncValue = s.truncValue := rfl
@[simp] theorem State.finishOk_codeInt (s : State) : s.finishOk.codeInt = s.codeInt := rfl
@[simp] theorem State.finishOk_codeStr (s : State) : s.finishOk.codeStr = s.codeStr := rfl
@[simp] theorem State.finishOk_digest (s : State) : s.finishOk.digest = s.digest := rfl
@[simp] theorem State.finishOk_chal (s : State) : s.finishOk.chal = s.chal := rfl
@[simp] theorem State.finishOk_key (s : State) : s.finishOk.key = s.key := rfl
@[simp] theorem State.finishOk_pending (s : State) : s.finishOk.pending = s.pending := rfl
@[simp] theorem State.finishOk_resp (s : State) : s.finishOk.resp = s.resp := rfl

/-! ### `State.ackDone` -/

@[simp] theorem State.ackDone_alg (s : State) : s.ackDone.alg = s.alg := rfl
@[simp] theorem State.ackDone_mode (s : State) : s.ackDone.mode = s.mode := rfl
@[simp] theorem State.ackDone_digits (s : State) : s.ackDone.digits = s.digits := rfl
@[simp] theorem State.ackDone_period (s : State) : s.ackDone.period = s.period := rfl
@[simp] theorem State.ackDone_busy (s : State) : s.ackDone.busy = s.busy := rfl
@[simp] theorem State.ackDone_done (s : State) : s.ackDone.done = false := rfl
@[simp] theorem State.ackDone_err (s : State) : s.ackDone.err = s.err := rfl
@[simp] theorem State.ackDone_rej (s : State) : s.ackDone.rej = s.rej := rfl
@[simp] theorem State.ackDone_wrign (s : State) : s.ackDone.wrign = s.wrign := rfl
@[simp] theorem State.ackDone_errcode (s : State) : s.ackDone.errcode = s.errcode := rfl
@[simp] theorem State.ackDone_lastop (s : State) : s.ackDone.lastop = s.lastop := rfl
@[simp] theorem State.ackDone_rejcause (s : State) : s.ackDone.rejcause = s.rejcause := rfl
@[simp] theorem State.ackDone_doneIe (s : State) : s.ackDone.doneIe = s.doneIe := rfl
@[simp] theorem State.ackDone_errIe (s : State) : s.ackDone.errIe = s.errIe := rfl
@[simp] theorem State.ackDone_factor (s : State) : s.ackDone.factor = s.factor := rfl
@[simp] theorem State.ackDone_keylen (s : State) : s.ackDone.keylen = s.keylen := rfl
@[simp] theorem State.ackDone_challen (s : State) : s.ackDone.challen = s.challen := rfl
@[simp] theorem State.ackDone_bucket (s : State) : s.ackDone.bucket = s.bucket := rfl
@[simp] theorem State.ackDone_dlen (s : State) : s.ackDone.dlen = s.dlen := rfl
@[simp] theorem State.ackDone_truncOffset (s : State) : s.ackDone.truncOffset = s.truncOffset := rfl
@[simp] theorem State.ackDone_truncValue (s : State) : s.ackDone.truncValue = s.truncValue := rfl
@[simp] theorem State.ackDone_codeInt (s : State) : s.ackDone.codeInt = s.codeInt := rfl
@[simp] theorem State.ackDone_codeStr (s : State) : s.ackDone.codeStr = s.codeStr := rfl
@[simp] theorem State.ackDone_digest (s : State) : s.ackDone.digest = s.digest := rfl
@[simp] theorem State.ackDone_chal (s : State) : s.ackDone.chal = s.chal := rfl
@[simp] theorem State.ackDone_key (s : State) : s.ackDone.key = s.key := rfl
@[simp] theorem State.ackDone_pending (s : State) : s.ackDone.pending = s.pending := rfl
@[simp] theorem State.ackDone_resp (s : State) : s.ackDone.resp = s.resp := rfl

/-! ### `State.ackRej` -/

@[simp] theorem State.ackRej_alg (s : State) : s.ackRej.alg = s.alg := rfl
@[simp] theorem State.ackRej_mode (s : State) : s.ackRej.mode = s.mode := rfl
@[simp] theorem State.ackRej_digits (s : State) : s.ackRej.digits = s.digits := rfl
@[simp] theorem State.ackRej_period (s : State) : s.ackRej.period = s.period := rfl
@[simp] theorem State.ackRej_busy (s : State) : s.ackRej.busy = s.busy := rfl
@[simp] theorem State.ackRej_done (s : State) : s.ackRej.done = s.done := rfl
@[simp] theorem State.ackRej_err (s : State) : s.ackRej.err = s.err := rfl
@[simp] theorem State.ackRej_rej (s : State) : s.ackRej.rej = false := rfl
@[simp] theorem State.ackRej_wrign (s : State) : s.ackRej.wrign = s.wrign := rfl
@[simp] theorem State.ackRej_errcode (s : State) : s.ackRej.errcode = s.errcode := rfl
@[simp] theorem State.ackRej_lastop (s : State) : s.ackRej.lastop = s.lastop := rfl
@[simp] theorem State.ackRej_rejcause (s : State) : s.ackRej.rejcause = 0 := rfl
@[simp] theorem State.ackRej_doneIe (s : State) : s.ackRej.doneIe = s.doneIe := rfl
@[simp] theorem State.ackRej_errIe (s : State) : s.ackRej.errIe = s.errIe := rfl
@[simp] theorem State.ackRej_factor (s : State) : s.ackRej.factor = s.factor := rfl
@[simp] theorem State.ackRej_keylen (s : State) : s.ackRej.keylen = s.keylen := rfl
@[simp] theorem State.ackRej_challen (s : State) : s.ackRej.challen = s.challen := rfl
@[simp] theorem State.ackRej_bucket (s : State) : s.ackRej.bucket = s.bucket := rfl
@[simp] theorem State.ackRej_dlen (s : State) : s.ackRej.dlen = s.dlen := rfl
@[simp] theorem State.ackRej_truncOffset (s : State) : s.ackRej.truncOffset = s.truncOffset := rfl
@[simp] theorem State.ackRej_truncValue (s : State) : s.ackRej.truncValue = s.truncValue := rfl
@[simp] theorem State.ackRej_codeInt (s : State) : s.ackRej.codeInt = s.codeInt := rfl
@[simp] theorem State.ackRej_codeStr (s : State) : s.ackRej.codeStr = s.codeStr := rfl
@[simp] theorem State.ackRej_digest (s : State) : s.ackRej.digest = s.digest := rfl
@[simp] theorem State.ackRej_chal (s : State) : s.ackRej.chal = s.chal := rfl
@[simp] theorem State.ackRej_key (s : State) : s.ackRej.key = s.key := rfl
@[simp] theorem State.ackRej_pending (s : State) : s.ackRej.pending = s.pending := rfl
@[simp] theorem State.ackRej_resp (s : State) : s.ackRej.resp = s.resp := rfl

/-! ### `State.ackWrign` -/

@[simp] theorem State.ackWrign_alg (s : State) : s.ackWrign.alg = s.alg := rfl
@[simp] theorem State.ackWrign_mode (s : State) : s.ackWrign.mode = s.mode := rfl
@[simp] theorem State.ackWrign_digits (s : State) : s.ackWrign.digits = s.digits := rfl
@[simp] theorem State.ackWrign_period (s : State) : s.ackWrign.period = s.period := rfl
@[simp] theorem State.ackWrign_busy (s : State) : s.ackWrign.busy = s.busy := rfl
@[simp] theorem State.ackWrign_done (s : State) : s.ackWrign.done = s.done := rfl
@[simp] theorem State.ackWrign_err (s : State) : s.ackWrign.err = s.err := rfl
@[simp] theorem State.ackWrign_rej (s : State) : s.ackWrign.rej = s.rej := rfl
@[simp] theorem State.ackWrign_wrign (s : State) : s.ackWrign.wrign = false := rfl
@[simp] theorem State.ackWrign_errcode (s : State) : s.ackWrign.errcode = s.errcode := rfl
@[simp] theorem State.ackWrign_lastop (s : State) : s.ackWrign.lastop = s.lastop := rfl
@[simp] theorem State.ackWrign_rejcause (s : State) : s.ackWrign.rejcause = s.rejcause := rfl
@[simp] theorem State.ackWrign_doneIe (s : State) : s.ackWrign.doneIe = s.doneIe := rfl
@[simp] theorem State.ackWrign_errIe (s : State) : s.ackWrign.errIe = s.errIe := rfl
@[simp] theorem State.ackWrign_factor (s : State) : s.ackWrign.factor = s.factor := rfl
@[simp] theorem State.ackWrign_keylen (s : State) : s.ackWrign.keylen = s.keylen := rfl
@[simp] theorem State.ackWrign_challen (s : State) : s.ackWrign.challen = s.challen := rfl
@[simp] theorem State.ackWrign_bucket (s : State) : s.ackWrign.bucket = s.bucket := rfl
@[simp] theorem State.ackWrign_dlen (s : State) : s.ackWrign.dlen = s.dlen := rfl
@[simp] theorem State.ackWrign_truncOffset (s : State) : s.ackWrign.truncOffset = s.truncOffset := rfl
@[simp] theorem State.ackWrign_truncValue (s : State) : s.ackWrign.truncValue = s.truncValue := rfl
@[simp] theorem State.ackWrign_codeInt (s : State) : s.ackWrign.codeInt = s.codeInt := rfl
@[simp] theorem State.ackWrign_codeStr (s : State) : s.ackWrign.codeStr = s.codeStr := rfl
@[simp] theorem State.ackWrign_digest (s : State) : s.ackWrign.digest = s.digest := rfl
@[simp] theorem State.ackWrign_chal (s : State) : s.ackWrign.chal = s.chal := rfl
@[simp] theorem State.ackWrign_key (s : State) : s.ackWrign.key = s.key := rfl
@[simp] theorem State.ackWrign_pending (s : State) : s.ackWrign.pending = s.pending := rfl
@[simp] theorem State.ackWrign_resp (s : State) : s.ackWrign.resp = s.resp := rfl

/-! ### `State.respond` -/

@[simp] theorem State.respond_alg (s : State) (r : Response) : (s.respond r).alg = s.alg := rfl
@[simp] theorem State.respond_mode (s : State) (r : Response) : (s.respond r).mode = s.mode := rfl
@[simp] theorem State.respond_digits (s : State) (r : Response) : (s.respond r).digits = s.digits := rfl
@[simp] theorem State.respond_period (s : State) (r : Response) : (s.respond r).period = s.period := rfl
@[simp] theorem State.respond_busy (s : State) (r : Response) : (s.respond r).busy = s.busy := rfl
@[simp] theorem State.respond_done (s : State) (r : Response) : (s.respond r).done = s.done := rfl
@[simp] theorem State.respond_err (s : State) (r : Response) : (s.respond r).err = s.err := rfl
@[simp] theorem State.respond_rej (s : State) (r : Response) : (s.respond r).rej = s.rej := rfl
@[simp] theorem State.respond_wrign (s : State) (r : Response) : (s.respond r).wrign = s.wrign := rfl
@[simp] theorem State.respond_errcode (s : State) (r : Response) : (s.respond r).errcode = s.errcode := rfl
@[simp] theorem State.respond_lastop (s : State) (r : Response) : (s.respond r).lastop = s.lastop := rfl
@[simp] theorem State.respond_rejcause (s : State) (r : Response) : (s.respond r).rejcause = s.rejcause := rfl
@[simp] theorem State.respond_doneIe (s : State) (r : Response) : (s.respond r).doneIe = s.doneIe := rfl
@[simp] theorem State.respond_errIe (s : State) (r : Response) : (s.respond r).errIe = s.errIe := rfl
@[simp] theorem State.respond_factor (s : State) (r : Response) : (s.respond r).factor = s.factor := rfl
@[simp] theorem State.respond_keylen (s : State) (r : Response) : (s.respond r).keylen = s.keylen := rfl
@[simp] theorem State.respond_challen (s : State) (r : Response) : (s.respond r).challen = s.challen := rfl
@[simp] theorem State.respond_bucket (s : State) (r : Response) : (s.respond r).bucket = s.bucket := rfl
@[simp] theorem State.respond_dlen (s : State) (r : Response) : (s.respond r).dlen = s.dlen := rfl
@[simp] theorem State.respond_truncOffset (s : State) (r : Response) : (s.respond r).truncOffset = s.truncOffset := rfl
@[simp] theorem State.respond_truncValue (s : State) (r : Response) : (s.respond r).truncValue = s.truncValue := rfl
@[simp] theorem State.respond_codeInt (s : State) (r : Response) : (s.respond r).codeInt = s.codeInt := rfl
@[simp] theorem State.respond_codeStr (s : State) (r : Response) : (s.respond r).codeStr = s.codeStr := rfl
@[simp] theorem State.respond_digest (s : State) (r : Response) : (s.respond r).digest = s.digest := rfl
@[simp] theorem State.respond_chal (s : State) (r : Response) : (s.respond r).chal = s.chal := rfl
@[simp] theorem State.respond_key (s : State) (r : Response) : (s.respond r).key = s.key := rfl
@[simp] theorem State.respond_pending (s : State) (r : Response) : (s.respond r).pending = s.pending := rfl
@[simp] theorem State.respond_resp (s : State) (r : Response) : (s.respond r).resp = some r := rfl

/-! ### `State.accept`: the outputs it clears depend on the command (40_command_protocol.md R115) -/

@[simp] theorem State.accept_alg (s : State) (i : Instr) : (s.accept i).alg = s.alg := by cases i <;> rfl
@[simp] theorem State.accept_mode (s : State) (i : Instr) : (s.accept i).mode = s.mode := by cases i <;> rfl
@[simp] theorem State.accept_digits (s : State) (i : Instr) : (s.accept i).digits = s.digits := by cases i <;> rfl
@[simp] theorem State.accept_period (s : State) (i : Instr) : (s.accept i).period = s.period := by cases i <;> rfl
@[simp] theorem State.accept_busy (s : State) (i : Instr) : (s.accept i).busy = true := by cases i <;> rfl
@[simp] theorem State.accept_done (s : State) (i : Instr) : (s.accept i).done = false := by cases i <;> rfl
@[simp] theorem State.accept_err (s : State) (i : Instr) : (s.accept i).err = s.err := by cases i <;> rfl
@[simp] theorem State.accept_rej (s : State) (i : Instr) : (s.accept i).rej = s.rej := by cases i <;> rfl
@[simp] theorem State.accept_wrign (s : State) (i : Instr) : (s.accept i).wrign = s.wrign := by cases i <;> rfl
@[simp] theorem State.accept_errcode (s : State) (i : Instr) : (s.accept i).errcode = s.errcode := by cases i <;> rfl
@[simp] theorem State.accept_lastop (s : State) (i : Instr) : (s.accept i).lastop = i.opcode := by cases i <;> rfl
@[simp] theorem State.accept_rejcause (s : State) (i : Instr) : (s.accept i).rejcause = s.rejcause := by cases i <;> rfl
@[simp] theorem State.accept_doneIe (s : State) (i : Instr) : (s.accept i).doneIe = s.doneIe := by cases i <;> rfl
@[simp] theorem State.accept_errIe (s : State) (i : Instr) : (s.accept i).errIe = s.errIe := by cases i <;> rfl
@[simp] theorem State.accept_factor (s : State) (i : Instr) : (s.accept i).factor = s.factor := by cases i <;> rfl
@[simp] theorem State.accept_keylen (s : State) (i : Instr) : (s.accept i).keylen = s.keylen := by cases i <;> rfl
@[simp] theorem State.accept_challen (s : State) (i : Instr) : (s.accept i).challen = s.challen := by cases i <;> rfl
theorem State.accept_bucket (s : State) (i : Instr) : (s.accept i).bucket = if i = .trunc then s.bucket else 0 := by cases i <;> rfl
theorem State.accept_dlen (s : State) (i : Instr) : (s.accept i).dlen = if i = .trunc then s.dlen else 0 := by cases i <;> rfl
@[simp] theorem State.accept_truncOffset (s : State) (i : Instr) : (s.accept i).truncOffset = 0 := by cases i <;> rfl
@[simp] theorem State.accept_truncValue (s : State) (i : Instr) : (s.accept i).truncValue = 0 := by cases i <;> rfl
@[simp] theorem State.accept_codeInt (s : State) (i : Instr) : (s.accept i).codeInt = 0 := by cases i <;> rfl
@[simp] theorem State.accept_codeStr (s : State) (i : Instr) : (s.accept i).codeStr = [] := by cases i <;> rfl
theorem State.accept_digest (s : State) (i : Instr) : (s.accept i).digest = if i = .trunc then s.digest else [] := by cases i <;> rfl
@[simp] theorem State.accept_chal (s : State) (i : Instr) : (s.accept i).chal = s.chal := by cases i <;> rfl
@[simp] theorem State.accept_key (s : State) (i : Instr) : (s.accept i).key = s.key := by cases i <;> rfl
@[simp] theorem State.accept_pending (s : State) (i : Instr) : (s.accept i).pending = s.pending := by cases i <;> rfl
@[simp] theorem State.accept_resp (s : State) (i : Instr) : (s.accept i).resp = s.resp := by cases i <;> rfl

end Sys2Proof.Machine
end

