-- ==== Sys2Proof/Laws/Bytes.lean ====
section
/-! SUPPORT. The byte order functions `be` and `ser` (00_scope.md R7): lengths, bounds, and that each undoes the other. -/

namespace Sys2Proof.Machine

@[simp] theorem length_ser (n v : Nat) : (ser n v).length = n := by
  induction n with
  | zero => rfl
  | succ n ih => simp [ser, ih]

@[simp] theorem length_zeros (n : Nat) : (zeros n).length = n := by simp [zeros]

theorem foldl_be (bs : List Byte) (acc : Nat) :
    bs.foldl (fun acc b => acc * 256 + b.toNat) acc = acc * 256 ^ bs.length + be bs := by
  induction bs generalizing acc with
  | nil => simp [be]
  | cons b bs ih =>
    have hcons : be (b :: bs) = bs.foldl (fun acc b => acc * 256 + b.toNat) (0 * 256 + b.toNat) := rfl
    rw [List.foldl_cons, ih, hcons, ih, List.length_cons]
    ring

@[simp] theorem be_nil : be [] = 0 := rfl

theorem be_cons (b : Byte) (bs : List Byte) : be (b :: bs) = b.toNat * 256 ^ bs.length + be bs := by
  simpa [be] using foldl_be bs b.toNat

theorem be_lt (bs : List Byte) : be bs < 256 ^ bs.length := by
  induction bs with
  | nil => simp
  | cons b bs ih =>
    have hb := b.isLt
    rw [be_cons, List.length_cons, pow_succ]
    nlinarith

/-- `be (ser n v) = v mod 256^n` (R7). -/
theorem be_ser (n v : Nat) : be (ser n v) = v % 256 ^ n := by
  induction n with
  | zero => simp [ser, Nat.mod_one]
  | succ n ih =>
    have hsplit : v % 256 ^ (n + 1) = v % 256 ^ n + 256 ^ n * (v / 256 ^ n % 256) := by
      rw [pow_succ, Nat.mod_mul]
    rw [ser, be_cons, ih, length_ser, BitVec.toNat_ofNat, hsplit]
    exact (add_comm _ _).trans (congrArg _ (mul_comm _ _))

/-- A byte string is the serialisation of the number it stands for. -/
theorem ser_be (bs : List Byte) : ser bs.length (be bs) = bs := by
  induction bs with
  | nil => rfl
  | cons b bs ih =>
    have hlt := be_lt bs
    have hpos : 0 < 256 ^ bs.length := by positivity
    have ser_add : ∀ (n k v : Nat), n ≤ k → ser n (v + 256 ^ k * b.toNat) = ser n v := by
      intro n
      induction n with
      | zero => intros; rfl
      | succ n ihn =>
        intro k v hk
        obtain ⟨c, rfl⟩ := Nat.exists_eq_add_of_le hk
        have e : (v + 256 ^ (n + 1 + c) * b.toNat) / 256 ^ n = v / 256 ^ n + 256 * (256 ^ c * b.toNat) := by
          have : 256 ^ (n + 1 + c) * b.toNat = 256 ^ n * (256 * (256 ^ c * b.toNat)) := by ring
          rw [this, Nat.add_mul_div_left _ _ (by positivity)]
        simp only [ser, e]
        rw [ihn _ _ (by omega)]
        congr 1
        apply BitVec.eq_of_toNat_eq
        simp [Nat.add_mul_mod_self_left]
    rw [List.length_cons, ser, be_cons, mul_comm b.toNat, add_comm (256 ^ bs.length * b.toNat),
      ser_add _ _ _ le_rfl, ih, Nat.add_mul_div_left _ _ hpos, Nat.div_eq_of_lt hlt]
    simp

/-- Byte `j` of a serialised number, the most significant first. -/
theorem getD_ser (n v j : Nat) (h : j < n) :
    (ser n v).getD j 0 = BitVec.ofNat 8 (v / 256 ^ (n - 1 - j)) := by
  induction n generalizing j with
  | zero => omega
  | succ n ih =>
    cases j with
    | zero => simp [ser]
    | succ j =>
      have := ih j (by omega)
      simp only [ser, List.getD_cons_succ, this]
      congr 3
      omega

end Sys2Proof.Machine
end

