-- ==== Sys2Proof/Laws/Memory.lean ====
section
/-! SUPPORT. The byte buffers: a read after a write, what a write leaves alone, that every operation keeps the canonical
form, and that buffers in canonical form with equal bytes are equal. -/

namespace Sys2Proof.Machine

@[simp] theorem Memory.read_nil (i : Nat) : Memory.read [] i = 0 := rfl

theorem Memory.read_below {lo hi : Nat} {m : Memory} (h : m.wfFrom lo hi = true) {i : Nat} (hi' : i < lo) :
    m.read i = 0 := by
  cases m with
  | nil => rfl
  | cons p m =>
    obtain ⟨a, b⟩ := p
    simp only [Memory.wfFrom, Bool.and_eq_true, decide_eq_true_eq] at h
    rw [Memory.read, if_neg (by omega), if_pos (by omega)]

theorem Memory.wfFrom_mono {lo lo' hi : Nat} {m : Memory} (h : m.wfFrom lo hi = true) (hl : lo' ≤ lo) :
    m.wfFrom lo' hi = true := by
  cases m with
  | nil => rfl
  | cons p m =>
    obtain ⟨a, b⟩ := p
    simp only [Memory.wfFrom, Bool.and_eq_true, decide_eq_true_eq] at h ⊢
    exact ⟨⟨⟨by omega, h.1.1.2⟩, h.1.2⟩, h.2⟩

theorem Memory.read_above {lo hi : Nat} {m : Memory} (h : m.wfFrom lo hi = true) {i : Nat} (hi' : hi ≤ i) :
    m.read i = 0 := by
  induction m generalizing lo with
  | nil => rfl
  | cons p m ih =>
    obtain ⟨a, b⟩ := p
    simp only [Memory.wfFrom, Bool.and_eq_true, decide_eq_true_eq] at h
    rw [Memory.read, if_neg (by omega), if_neg (by omega)]
    exact ih h.2

/-- One write at an index: the index holds the byte, every other index holds what it held. -/
theorem Memory.read_write {lo hi : Nat} {m : Memory} (h : m.wfFrom lo hi = true) (i j : Nat) (v : Byte) :
    (m.write i v).read j = if j = i then v else m.read j := by
  induction m generalizing lo with
  | nil =>
    rw [Memory.write]
    by_cases hv : v = 0
    · rw [if_pos hv, hv, Memory.read_nil, ite_self]
    · rw [if_neg hv]
      by_cases hj : j = i <;> simp [Memory.read, hj]
  | cons p m ih =>
    obtain ⟨a, b⟩ := p
    simp only [Memory.wfFrom, Bool.and_eq_true, decide_eq_true_eq] at h
    rw [Memory.write]
    by_cases hia : i < a
    · rw [if_pos hia]
      by_cases hv : v = 0
      · rw [if_pos hv]
        by_cases hj : j = i
        · rw [if_pos hj, Memory.read, if_neg (by omega), if_pos (by omega), hv]
        · rw [if_neg hj]
      · rw [if_neg hv]
        by_cases hj : j = i
        · rw [Memory.read, if_pos hj, if_pos hj]
        · rw [Memory.read, if_neg hj, if_neg hj]
          by_cases hlt : j < i
          · rw [if_pos hlt, Memory.read, if_neg (by omega), if_pos (by omega)]
          · rw [if_neg hlt]
    · rw [if_neg hia]
      by_cases hie : i = a
      · subst hie
        rw [if_pos rfl]
        by_cases hv : v = 0
        · rw [if_pos hv]
          by_cases hj : j = i
          · rw [if_pos hj, hv, hj]
            exact Memory.read_below h.2 (by omega)
          · rw [if_neg hj, Memory.read, if_neg hj]
            by_cases hlt : j < i
            · rw [if_pos hlt]
              exact Memory.read_below h.2 (by omega)
            · rw [if_neg hlt]
        · rw [if_neg hv]
          by_cases hj : j = i <;> simp [Memory.read, hj]
      · rw [if_neg hie, Memory.read]
        by_cases hja : j = a
        · rw [if_pos hja, if_neg (by omega), Memory.read, if_pos hja]
        · rw [if_neg hja]
          by_cases hlt : j < a
          · rw [if_pos hlt, if_neg (by omega), Memory.read, if_neg hja, if_pos hlt]
          · rw [if_neg hlt, ih h.2, Memory.read, if_neg hja, if_neg hlt]

/-- A write keeps the canonical form. -/
theorem Memory.wfFrom_write {lo hi : Nat} {m : Memory} (h : m.wfFrom lo hi = true) {i : Nat} (hl : lo ≤ i) (hh : i < hi)
    (v : Byte) : (m.write i v).wfFrom lo hi = true := by
  induction m generalizing lo with
  | nil =>
    rw [Memory.write]
    by_cases hv : v = 0
    · rw [if_pos hv]
      rfl
    · rw [if_neg hv]
      simpa [Memory.wfFrom, hl, hh] using hv
  | cons p m ih =>
    obtain ⟨a, b⟩ := p
    have h0 := h
    simp only [Memory.wfFrom, Bool.and_eq_true, decide_eq_true_eq] at h
    rw [Memory.write]
    by_cases hia : i < a
    · rw [if_pos hia]
      by_cases hv : v = 0
      · rw [if_pos hv]
        exact h0
      · rw [if_neg hv]
        simp only [Memory.wfFrom, Bool.and_eq_true, decide_eq_true_eq]
        refine ⟨⟨⟨hl, hh⟩, by simpa using hv⟩, ⟨⟨by omega, h.1.1.2⟩, h.1.2⟩, h.2⟩
    · rw [if_neg hia]
      by_cases hie : i = a
      · rw [if_pos hie]
        by_cases hv : v = 0
        · rw [if_pos hv]
          exact Memory.wfFrom_mono h.2 (by omega)
        · rw [if_neg hv]
          simp only [Memory.wfFrom, Bool.and_eq_true, decide_eq_true_eq]
          exact ⟨⟨⟨hl, hh⟩, by simpa using hv⟩, by rw [hie]; exact h.2⟩
      · rw [if_neg hie]
        simp only [Memory.wfFrom, Bool.and_eq_true, decide_eq_true_eq]
        exact ⟨h.1, ih h.2 (by omega)⟩

theorem Memory.wf_write {size : Nat} {m : Memory} (h : m.wf size = true) {i : Nat} (hi : i < size) (v : Byte) :
    (m.write i v).wf size = true :=
  Memory.wfFrom_write h (Nat.zero_le i) hi v

@[simp] theorem Memory.wf_nil (size : Nat) : Memory.wf size [] = true := rfl

/-- A sequential write keeps the canonical form. -/
theorem Memory.wf_writeBytes {size : Nat} {m : Memory} (h : m.wf size = true) (start : Nat) (bs : List Byte)
    (hb : start + bs.length ≤ size) : (m.writeBytes start bs).wf size = true := by
  induction bs generalizing m start with
  | nil => exact h
  | cons b bs ih =>
    rw [List.length_cons] at hb
    exact ih (Memory.wf_write h (by omega) b) (start + 1) (by omega)

/-- A sequential write: the indexes written hold the bytes, every other index holds what it held. -/
theorem Memory.read_writeBytes {size : Nat} {m : Memory} (h : m.wf size = true) (start : Nat) (bs : List Byte)
    (hb : start + bs.length ≤ size) (j : Nat) :
    (m.writeBytes start bs).read j =
      if start ≤ j ∧ j < start + bs.length then bs.getD (j - start) 0 else m.read j := by
  induction bs generalizing m start with
  | nil =>
    rw [if_neg (by rw [List.length_nil]; omega)]
    rfl
  | cons b bs ih =>
    rw [List.length_cons] at hb ⊢
    rw [Memory.writeBytes, ih (Memory.wf_write h (by omega) b) (start + 1) (by omega), Memory.read_write h]
    by_cases h1 : start + 1 ≤ j ∧ j < start + 1 + bs.length
    · rw [if_pos h1, if_pos (by omega), show j - start = (j - (start + 1)) + 1 by omega, List.getD_cons_succ]
    · rw [if_neg h1]
      by_cases h2 : j = start
      · rw [if_pos h2, if_pos (by omega), h2, Nat.sub_self, List.getD_cons_zero]
      · rw [if_neg h2, if_neg (by omega)]

@[simp] theorem Memory.length_readBytes (m : Memory) (start n : Nat) : (m.readBytes start n).length = n := by
  induction n generalizing start with
  | zero => rfl
  | succ n ih => simp [Memory.readBytes, ih]

theorem Memory.getD_readBytes (m : Memory) (start n j : Nat) (h : j < n) :
    (m.readBytes start n).getD j 0 = m.read (start + j) := by
  induction n generalizing start j with
  | zero => omega
  | succ n ih =>
    cases j with
    | zero => simp [Memory.readBytes]
    | succ j =>
      rw [Memory.readBytes, List.getD_cons_succ, ih (start + 1) j (by omega)]
      congr 1
      omega

/-- What is read depends on the bytes read alone. -/
theorem Memory.readBytes_congr {m m' : Memory} (start n : Nat)
    (h : ∀ i, start ≤ i → i < start + n → m.read i = m'.read i) :
    m.readBytes start n = m'.readBytes start n := by
  induction n generalizing start with
  | zero => rfl
  | succ n ih =>
    rw [Memory.readBytes, Memory.readBytes, h start (by omega) (by omega),
      ih (start + 1) (fun i h1 h2 => h i (by omega) (by omega))]

/-- Reading back what a sequential write stored. -/
theorem Memory.readBytes_writeBytes {size : Nat} {m : Memory} (h : m.wf size = true) (start : Nat) (bs : List Byte)
    (hb : start + bs.length ≤ size) : (m.writeBytes start bs).readBytes start bs.length = bs := by
  apply List.ext_getElem (by simp)
  intro j h1 h2
  have hj : j < bs.length := h2
  have := Memory.getD_readBytes (m.writeBytes start bs) start bs.length j hj
  rw [Memory.read_writeBytes h start bs hb, if_pos (by omega), Nat.add_sub_cancel_left] at this
  simpa [List.getD_eq_getElem?_getD, h1, h2] using this

theorem Memory.ext_from {lo hi : Nat} {m m' : Memory} (h : m.wfFrom lo hi = true) (h' : m'.wfFrom lo hi = true)
    (hr : ∀ i, m.read i = m'.read i) : m = m' := by
  induction m generalizing lo m' with
  | nil =>
    cases m' with
    | nil => rfl
    | cons p m' =>
      obtain ⟨a, b⟩ := p
      simp only [Memory.wfFrom, Bool.and_eq_true, decide_eq_true_eq, bne_iff_ne] at h'
      have := hr a
      rw [Memory.read_nil, Memory.read, if_pos rfl] at this
      exact absurd this.symm h'.1.2
  | cons p m ih =>
    obtain ⟨a, b⟩ := p
    have h0 := h
    simp only [Memory.wfFrom, Bool.and_eq_true, decide_eq_true_eq, bne_iff_ne] at h
    cases m' with
    | nil =>
      have := hr a
      rw [Memory.read_nil, Memory.read, if_pos rfl] at this
      exact absurd this h.1.2
    | cons p' m' =>
      obtain ⟨a', b'⟩ := p'
      simp only [Memory.wfFrom, Bool.and_eq_true, decide_eq_true_eq, bne_iff_ne] at h'
      have haa : a = a' := by
        rcases Nat.lt_trichotomy a a' with hlt | heq | hgt
        · have := hr a
          rw [Memory.read, if_pos rfl, Memory.read, if_neg (by omega), if_pos hlt] at this
          exact absurd this h.1.2
        · exact heq
        · have := hr a'
          rw [Memory.read, if_neg (by omega), if_pos hgt, Memory.read, if_pos rfl] at this
          exact absurd this.symm h'.1.2
      subst haa
      have hbb : b = b' := by simpa [Memory.read] using hr a
      subst hbb
      have : m = m' := by
        apply ih h.2 h'.2
        intro i
        by_cases hi : i < a + 1
        · rw [Memory.read_below h.2 hi, Memory.read_below h'.2 hi]
        · have := hr i
          rw [Memory.read, if_neg (by omega), if_neg (by omega), Memory.read, if_neg (by omega),
            if_neg (by omega)] at this
          exact this
      rw [this]

/-- Buffers in canonical form that hold the same bytes are the same data. -/
theorem Memory.ext_of_wf {size : Nat} {m m' : Memory} (h : m.wf size = true) (h' : m'.wf size = true)
    (hr : ∀ i, m.read i = m'.read i) : m = m' :=
  Memory.ext_from h h' hr

/-- The host's write of a word keeps the canonical form. -/
theorem Memory.wf_writeWord {size : Nat} {m : Memory} (h : m.wf size = true) (w : Nat) (hw : 4 * w + 4 ≤ size)
    (v : Word) : (m.writeWord w v).wf size = true :=
  Memory.wf_writeBytes h (4 * w) _ (by simpa using hw)

/-- The host's write of a word, byte by byte: big-endian within the word (20_memory.md R64). -/
theorem Memory.read_writeWord {size : Nat} {m : Memory} (h : m.wf size = true) (w : Nat) (hw : 4 * w + 4 ≤ size)
    (v : Word) (j : Nat) :
    (m.writeWord w v).read j =
      if 4 * w ≤ j ∧ j < 4 * w + 4 then BitVec.ofNat 8 (v.toNat / 256 ^ (3 - (j - 4 * w))) else m.read j := by
  rw [Memory.writeWord, Memory.read_writeBytes h (4 * w) _ (by simpa using hw), length_ser]
  by_cases hj : 4 * w ≤ j ∧ j < 4 * w + 4
  · rw [if_pos hj, if_pos hj, getD_ser 4 _ _ (by omega)]
  · rw [if_neg hj, if_neg hj]

end Sys2Proof.Machine
end

