-- ==== Sys2Proof/Laws/Digest.lean ====
section
/-! SUPPORT. Lengths of what the hash primitives and the Digest Function give (42_sha_primitives.md R163, 41_digest_hmac.md
R144, R146). -/

namespace Sys2Proof.Machine

theorem length_serWord {w : Nat} (x : BitVec w) : (serWord x).length = w / 8 := length_ser _ _

/-- The digest has the algorithm's length (R163). -/
theorem length_hash (A : Alg) (m : List Byte) : (hash A m).length = A.digestBytes := by
  cases A <;> simp [hash, sha1, sha2, length_serWord, Alg.digestBytes]

theorem digestBytes_le_blockBytes (A : Alg) : A.digestBytes ≤ A.blockBytes := by cases A <;> decide

/-- `K0` fills a block (R144). -/
theorem length_prepareKey (A : Alg) (key : List Byte) : (prepareKey A key).length = A.blockBytes := by
  have h := digestBytes_le_blockBytes A
  rw [prepareKey]
  split
  · rw [List.length_append, length_hash, length_zeros]
    omega
  · rw [List.length_append, length_zeros]
    omega

theorem length_xorPad (k : List Byte) (c : Byte) : (xorPad k c).length = k.length := by simp [xorPad]

theorem length_message (f : DWord) : (message f).length = 8 := length_ser _ _

/-- The Digest Function gives 20, 32 or 64 bytes, never none (R146). -/
theorem length_digestFn (A : Alg) (key : List Byte) (f : DWord) : (digestFn A key f).length = A.digestBytes :=
  length_hash _ _

theorem digestBytes_bounds (A : Alg) : 20 ≤ A.digestBytes ∧ A.digestBytes ≤ 64 := by cases A <;> decide

theorem Alg.ofCode_eq_none (c : BitVec 2) : Alg.ofCode c = none ↔ c = 3 := by
  revert c
  decide

end Sys2Proof.Machine
end

