-- ==== Sys2Proof/Laws/CodeGen.lean ====
section
/-! SUPPORT. The quantizer, the truncation and the formatting in arithmetic terms (43_codegen_quant_trunc.md R191 to R199). -/

namespace Sys2Proof.Machine

/-! ### Quantization -/

/-- Floor division: the greatest `q` with `q * p <= f` (R191). -/
theorem floorDiv_spec (f : Int) (p : Nat) (hp : 0 < p) : floorDiv f p * p ≤ f ∧ f < (floorDiv f p + 1) * p := by
  have hp' : (0 : Int) < p := by exact_mod_cast hp
  rw [floorDiv, Int.fdiv_eq_ediv_of_nonneg f hp'.le]
  exact ⟨Int.ediv_mul_le f hp'.ne', Int.lt_ediv_add_one_mul_self f hp'⟩

/-- The quotient of a 64-bit dividend is a 64-bit number (R194). -/
theorem floorDiv_bounds (f : Int) (p : Nat) (hp : 0 < p) (hl : -2 ^ 63 ≤ f) (hu : f < 2 ^ 63) :
    -2 ^ 63 ≤ floorDiv f p ∧ floorDiv f p < 2 ^ 63 := by
  have hp' : (0 : Int) < p := by exact_mod_cast hp
  have hp1 : (1 : Int) ≤ p := by exact_mod_cast hp
  obtain ⟨h1, h2⟩ := floorDiv_spec f p hp
  constructor
  · by_contra hc
    nlinarith
  · by_contra hc
    nlinarith

/-- The bucket in TOTP mode, read as a signed number (R191, R194). -/
theorem toInt_effFactor_totp (f : DWord) (p : Word) (hp : p ≠ 0) :
    (effFactor 0 f p).toInt = floorDiv f.toInt p.toNat := by
  have hp' : 0 < p.toNat := by
    rcases Nat.eq_zero_or_pos p.toNat with h | h
    · exact absurd (BitVec.eq_of_toNat_eq (by simpa using h)) hp
    · exact h
  obtain ⟨hl, hu⟩ := floorDiv_bounds f.toInt p.toNat hp' f.le_toInt f.toInt_lt
  rw [effFactor, if_pos rfl, BitVec.toInt_ofInt]
  exact Int.bmod_eq_of_le (by norm_num at hl ⊢; omega) (by norm_num at hu ⊢; omega)

theorem effFactor_hotp (f : DWord) (p : Word) : effFactor 1 f p = f := rfl

/-! ### Truncation -/

theorem toNat_dynOffset (dg : List Byte) : (dynOffset dg).toNat = (dg.getD (dg.length - 1) 0).toNat % 16 := by
  rw [dynOffset, BitVec.extractLsb'_toNat, Nat.shiftRight_zero]

theorem dynOffset_lt (dg : List Byte) : (dynOffset dg).toNat < 16 := (dynOffset dg).isLt

/-- The four bytes of the read, when they lie inside the digest (R196). -/
theorem take_drop_four (dg : List Byte) (o : Nat) (h : o + 4 ≤ dg.length) :
    (dg.drop o).take 4 = [dg.getD o 0, dg.getD (o + 1) 0, dg.getD (o + 2) 0, dg.getD (o + 3) 0] := by
  have g : ∀ (k : Nat) (hk : k < dg.length), dg.getD k 0 = dg[k] := fun k hk => by
    simp [List.getD_eq_getElem?_getD, hk]
  rw [g o (by omega), g (o + 1) (by omega), g (o + 2) (by omega), g (o + 3) (by omega)]
  apply List.ext_getElem
  · simp
    omega
  · intro n h1 h2
    have hn : n < 4 := by simpa using h2
    have : n = 0 ∨ n = 1 ∨ n = 2 ∨ n = 3 := by omega
    rcases this with rfl | rfl | rfl | rfl <;> simp

theorem be_four (a b c d : Byte) :
    be [a, b, c, d] = a.toNat * 2 ^ 24 + b.toNat * 2 ^ 16 + c.toNat * 2 ^ 8 + d.toNat := by
  simp only [be_cons, be_nil, List.length_cons, List.length_nil]
  ring

/-- The value is the four bytes at the offset, big-endian, without the top bit (R196, R197). -/
theorem toNat_dynValue (dg : List Byte) (h : (dynOffset dg).toNat + 4 ≤ dg.length) :
    (dynValue dg).toNat =
      ((dg.getD (dynOffset dg).toNat 0).toNat * 2 ^ 24 + (dg.getD ((dynOffset dg).toNat + 1) 0).toNat * 2 ^ 16 +
        (dg.getD ((dynOffset dg).toNat + 2) 0).toNat * 2 ^ 8 + (dg.getD ((dynOffset dg).toNat + 3) 0).toNat) % 2 ^ 31 := by
  have hmask : ∀ x : Word, ((x &&& 0x7FFFFFFF).setWidth 31).toNat = x.toNat % 2 ^ 31 := by
    intro x
    have : (x &&& 0x7FFFFFFF).toNat = x.toNat % 2 ^ 31 := by
      rw [BitVec.toNat_and]
      exact Nat.and_two_pow_sub_one_eq_mod x.toNat 31
    rw [BitVec.toNat_setWidth, this]
    exact Nat.mod_mod _ _
  rw [dynValue, hmask, dynWord, take_drop_four dg _ h, be_four, BitVec.toNat_ofNat]
  omega

/-! ### Formatting -/

@[simp] theorem length_fmt (code d : Nat) : (fmt code d).length = d := by simp [fmt]

theorem getD_fmt (code d i : Nat) (h : i < d) :
    (fmt code d).getD i 0 = BitVec.ofNat 8 (0x30 + code / 10 ^ (d - 1 - i) % 10) := by
  simp [fmt, fmtChar, List.getD_eq_getElem?_getD, h]

theorem toNat_fmtChar (code d i : Nat) : (fmtChar code d i).toNat = 0x30 + code / 10 ^ (d - 1 - i) % 10 := by
  rw [fmtChar, BitVec.toNat_ofNat]
  omega

theorem codeOf_lt (v : BitVec 31) (d : Nat) : codeOf v d < 2 ^ 31 :=
  lt_of_le_of_lt (Nat.mod_le _ _) v.isLt

/-- Every byte of the string is a decimal digit (R199). -/
theorem isCodeByte_fmtChar (code d i : Nat) : isCodeByte (fmtChar code d i) = true := by
  have := toNat_fmtChar code d i
  have h10 : code / 10 ^ (d - 1 - i) % 10 < 10 := Nat.mod_lt _ (by norm_num)
  simp only [isCodeByte, Bool.or_eq_true, Bool.and_eq_true, decide_eq_true_eq]
  right
  omega

end Sys2Proof.Machine
end

