-- ==== Sys2Proof/Laws/Exec.lean ====
section
/-! SUPPORT. What a completion can do, once: each command succeeds with its own writes or takes a fault
(40_command_protocol.md R116, 60_exceptions.md R262). -/

namespace Sys2Proof.Machine

@[simp] theorem complete_ok (s w : State) : complete s (.ok w) = .next w.finishOk := rfl

@[simp] theorem complete_error (s : State) (f : FaultCode) : complete s (.error f) = .next (s.raiseFault f) := rfl

/-! ### The operand conditions in arithmetic terms -/

theorem digitsIllegal_iff (s : State) : s.digitsIllegal = true ↔ s.digits.toNat < 6 ∨ 10 < s.digits.toNat := by
  rw [State.digitsIllegal, Bool.or_eq_true, decide_eq_true_eq, decide_eq_true_eq]
  exact Iff.rfl

theorem digitsIllegal_eq_false (s : State) : s.digitsIllegal = false ↔ 6 ≤ s.digits.toNat ∧ s.digits.toNat ≤ 10 := by
  rw [← Bool.not_eq_true, digitsIllegal_iff]
  omega

theorem periodIllegal_iff (s : State) : s.periodIllegal = true ↔ s.mode = 0 ∧ s.period = 0 := by
  simp [State.periodIllegal]

theorem periodIllegal_eq_false (s : State) : s.periodIllegal = false ↔ ¬ (s.mode = 0 ∧ s.period = 0) := by
  rw [← Bool.not_eq_true, periodIllegal_iff]

theorem keyTooLong_iff (s : State) : s.keyTooLong = true ↔ 256 < s.keylen.toNat := by
  simp [State.keyTooLong, Config.keyMax]

theorem keyTooLong_eq_false (s : State) : s.keyTooLong = false ↔ s.keylen.toNat ≤ 256 := by
  rw [← Bool.not_eq_true, keyTooLong_iff]
  omega

/-! ### The operands byte by byte -/

theorem readBytes_zero_eq_map (m : Memory) (n : Nat) : m.readBytes 0 n = (List.range n).map (fun j => m.read j) := by
  apply List.ext_getElem (by simp)
  intro j h1 h2
  have hj : j < n := by simpa using h1
  have := Memory.getD_readBytes m 0 n j hj
  rw [Nat.zero_add] at this
  simpa [List.getD_eq_getElem?_getD, hj] using this

theorem keyBytes_eq (s : State) : s.keyBytes = (List.range s.keylen.toNat).map (fun j => s.key.read j) :=
  readBytes_zero_eq_map _ _

@[simp] theorem length_digestBytes (s : State) : s.digestBytes.length = s.dlen.toNat := Memory.length_readBytes _ _ _

theorem getD_digestBytes (s : State) (j : Nat) (h : j < s.dlen.toNat) : s.digestBytes.getD j 0 = s.digest.read j := by
  rw [State.digestBytes, Memory.getD_readBytes _ _ _ _ h, Nat.zero_add]

theorem toNat_dynOffset_digestBytes (s : State) (h : s.dlen ≠ 0) :
    (dynOffset s.digestBytes).toNat = (s.digest.read (s.dlen.toNat - 1)).toNat % 16 := by
  have hpos : 0 < s.dlen.toNat := by
    rcases Nat.eq_zero_or_pos s.dlen.toNat with h0 | h0
    · exact absurd (BitVec.eq_of_toNat_eq (by simpa using h0)) h
    · exact h0
  rw [toNat_dynOffset, length_digestBytes, getD_digestBytes s _ (by omega)]

/-! ### Each command's success -/

/-- A digest of 19 bytes or more passes both checks of GEN (R207). -/
theorem genFromDigest_ok (s : State) (b : DWord) (dg : List Byte) (h : 19 ≤ dg.length) :
    genFromDigest s b dg = .ok { s with
      bucket := b
      codeInt := BitVec.ofNat 32 (codeOf (dynValue dg) s.digitCount)
      codeStr := s.codeStr.writeBytes 0 (fmt (codeOf (dynValue dg) s.digitCount) s.digitCount) } := by
  have := dynOffset_lt dg
  rw [genFromDigest, if_neg (by omega), if_neg (by omega)]

/-- What GEN leaves when it succeeds (R205). -/
def genDone (s : State) (A : Alg) : State :=
  { s with
    bucket := effFactor s.mode s.factor s.period
    codeInt := BitVec.ofNat 32
      (codeOf (dynValue (digestFn A s.keyBytes (effFactor s.mode s.factor s.period))) s.digitCount)
    codeStr := s.codeStr.writeBytes 0
      (fmt (codeOf (dynValue (digestFn A s.keyBytes (effFactor s.mode s.factor s.period))) s.digitCount) s.digitCount)
    busy := false
    done := true }

/-- What HMAC leaves when it succeeds (R148). -/
def hmacDone (s : State) (A : Alg) : State :=
  { s with
    dlen := BitVec.ofNat 7 A.digestBytes
    digest := s.digest.writeBytes 0 (digestFn A s.keyBytes s.factor)
    busy := false
    done := true }

/-- What TRUNC leaves when it succeeds (R204). -/
def truncDone (s : State) : State :=
  { s with
    truncOffset := dynOffset s.digestBytes
    truncValue := dynValue s.digestBytes
    codeInt := BitVec.ofNat 32 (codeOf (dynValue s.digestBytes) s.digitCount)
    codeStr := s.codeStr.writeBytes 0 (fmt (codeOf (dynValue s.digestBytes) s.digitCount) s.digitCount)
    busy := false
    done := true }

/-- What QUANT leaves when it succeeds (R203). -/
def quantDone (s : State) : State :=
  { s with bucket := effFactor s.mode s.factor s.period, busy := false, done := true }

theorem execGen_ok (s : State) (A : Alg) (hd : s.digitsIllegal = false) (hp : s.periodIllegal = false)
    (hk : s.keyTooLong = false) (hA : Alg.ofCode s.alg = some A) : exec .gen s = .next (genDone s A) := by
  have hlen : 19 ≤ (digestFn A s.keyBytes (effFactor s.mode s.factor s.period)).length := by
    rw [length_digestFn]
    have := digestBytes_bounds A
    omega
  simp [exec, execGen, genExec, hd, hp, hk, hA, genFromDigest_ok _ _ _ hlen, genDone, State.finishOk]

theorem execHmac_ok (s : State) (A : Alg) (hk : s.keyTooLong = false) (hA : Alg.ofCode s.alg = some A) :
    exec .hmac s = .next (hmacDone s A) := by
  simp [exec, execHmac, hmacExec, hk, hA, hmacDone, State.finishOk]

theorem execTrunc_ok (s : State) (hd : s.digitsIllegal = false) (h0 : s.dlen ≠ 0) (h64 : s.dlen.toNat ≤ 64)
    (ho : (dynOffset s.digestBytes).toNat + 4 ≤ s.dlen.toNat) : exec .trunc s = .next (truncDone s) := by
  simp only [exec, execTrunc, truncExec, hd, Bool.false_eq_true, if_false, if_neg h0, Config.digestMax]
  rw [if_neg (by omega), if_neg (by omega)]
  rfl

theorem execQuant_ok (s : State) (hp : s.periodIllegal = false) : exec .quant s = .next (quantDone s) := by
  simp [exec, execQuant, quantExec, hp, quantDone, State.finishOk]

theorem execClr_eq (s : State) : exec .clr s = .next s.clearOperands.clearOutputs.ackErr.finishOk := rfl

/-! ### Each command's fault, first condition first (60_exceptions.md R264) -/

theorem execGen_digits (s : State) (hd : s.digitsIllegal = true) : exec .gen s = .next (s.raiseFault .digitsRange) := by
  simp [exec, execGen, genExec, hd]

theorem execGen_period (s : State) (hd : s.digitsIllegal = false) (hp : s.periodIllegal = true) :
    exec .gen s = .next (s.raiseFault .periodZero) := by
  simp [exec, execGen, genExec, hd, hp]

theorem execGen_key (s : State) (hd : s.digitsIllegal = false) (hp : s.periodIllegal = false) (hk : s.keyTooLong = true) :
    exec .gen s = .next (s.raiseFault .invalidSecret) := by
  simp [exec, execGen, genExec, hd, hp, hk]

theorem execGen_alg (s : State) (hd : s.digitsIllegal = false) (hp : s.periodIllegal = false) (hk : s.keyTooLong = false)
    (hA : Alg.ofCode s.alg = none) : exec .gen s = .next (s.raiseFault .algorithmUnavailable) := by
  simp [exec, execGen, genExec, hd, hp, hk, hA]

theorem execHmac_key (s : State) (hk : s.keyTooLong = true) : exec .hmac s = .next (s.raiseFault .invalidSecret) := by
  simp [exec, execHmac, hmacExec, hk]

theorem execHmac_alg (s : State) (hk : s.keyTooLong = false) (hA : Alg.ofCode s.alg = none) :
    exec .hmac s = .next (s.raiseFault .algorithmUnavailable) := by
  simp [exec, execHmac, hmacExec, hk, hA]

theorem execTrunc_digits (s : State) (hd : s.digitsIllegal = true) :
    exec .trunc s = .next (s.raiseFault .digitsRange) := by
  simp [exec, execTrunc, truncExec, hd]

theorem execTrunc_empty (s : State) (hd : s.digitsIllegal = false) (h0 : s.dlen = 0) :
    exec .trunc s = .next (s.raiseFault .emptyDigest) := by
  simp only [exec, execTrunc, truncExec, hd, Bool.false_eq_true, if_false, if_pos h0, complete_error]

theorem execTrunc_short (s : State) (hd : s.digitsIllegal = false) (h0 : s.dlen ≠ 0)
    (hs : 64 < s.dlen.toNat ∨ s.dlen.toNat < (dynOffset s.digestBytes).toNat + 4) :
    exec .trunc s = .next (s.raiseFault .digestLength) := by
  simp only [exec, execTrunc, truncExec, hd, Bool.false_eq_true, if_false, if_neg h0, Config.digestMax]
  by_cases h64 : 64 < s.dlen.toNat
  · rw [if_pos h64, complete_error]
  · rw [if_neg h64, if_pos (by omega), complete_error]

theorem execQuant_period (s : State) (hp : s.periodIllegal = true) : exec .quant s = .next (s.raiseFault .periodZero) := by
  simp [exec, execQuant, quantExec, hp]

/-! ### All of it at once -/

/-- Everything a completion can do: success with the command's own writes, or one of the six faults. -/
theorem exec_cases (i : Instr) (s : State) :
    (i ≠ .clr ∧ ∃ f : FaultCode, exec i s = .next (s.raiseFault f)) ∨
    (i = .gen ∧ s.digitsIllegal = false ∧ s.periodIllegal = false ∧ s.keyTooLong = false ∧
      ∃ A : Alg, Alg.ofCode s.alg = some A ∧ exec i s = .next (genDone s A)) ∨
    (i = .hmac ∧ s.keyTooLong = false ∧ ∃ A : Alg, Alg.ofCode s.alg = some A ∧ exec i s = .next (hmacDone s A)) ∨
    (i = .trunc ∧ s.digitsIllegal = false ∧ s.dlen ≠ 0 ∧ s.dlen.toNat ≤ 64 ∧
      (dynOffset s.digestBytes).toNat + 4 ≤ s.dlen.toNat ∧ exec i s = .next (truncDone s)) ∨
    (i = .quant ∧ s.periodIllegal = false ∧ exec i s = .next (quantDone s)) ∨
    (i = .clr ∧ exec i s = .next s.clearOperands.clearOutputs.ackErr.finishOk) := by
  cases i with
  | gen =>
    cases hd : s.digitsIllegal
    · cases hp : s.periodIllegal
      · cases hk : s.keyTooLong
        · cases hA : Alg.ofCode s.alg with
          | none => exact .inl ⟨by simp, _, execGen_alg s hd hp hk hA⟩
          | some A => exact .inr (.inl ⟨rfl, rfl, rfl, rfl, A, rfl, execGen_ok s A hd hp hk hA⟩)
        · exact .inl ⟨by simp, _, execGen_key s hd hp hk⟩
      · exact .inl ⟨by simp, _, execGen_period s hd hp⟩
    · exact .inl ⟨by simp, _, execGen_digits s hd⟩
  | hmac =>
    cases hk : s.keyTooLong
    · cases hA : Alg.ofCode s.alg with
      | none => exact .inl ⟨by simp, _, execHmac_alg s hk hA⟩
      | some A => exact .inr (.inr (.inl ⟨rfl, rfl, A, rfl, execHmac_ok s A hk hA⟩))
    · exact .inl ⟨by simp, _, execHmac_key s hk⟩
  | trunc =>
    cases hd : s.digitsIllegal
    · by_cases h0 : s.dlen = 0
      · exact .inl ⟨by simp, _, execTrunc_empty s hd h0⟩
      · by_cases hs : 64 < s.dlen.toNat ∨ s.dlen.toNat < (dynOffset s.digestBytes).toNat + 4
        · exact .inl ⟨by simp, _, execTrunc_short s hd h0 hs⟩
        · have h64 : s.dlen.toNat ≤ 64 := by omega
          have ho : (dynOffset s.digestBytes).toNat + 4 ≤ s.dlen.toNat := by omega
          exact .inr (.inr (.inr (.inl ⟨rfl, rfl, h0, h64, ho, execTrunc_ok s hd h0 h64 ho⟩)))
    · exact .inl ⟨by simp, _, execTrunc_digits s hd⟩
  | quant =>
    cases hp : s.periodIllegal
    · exact .inr (.inr (.inr (.inr (.inl ⟨rfl, rfl, execQuant_ok s hp⟩))))
    · exact .inl ⟨by simp, _, execQuant_period s hp⟩
  | clr => exact .inr (.inr (.inr (.inr (.inr ⟨rfl, rfl⟩))))

theorem FaultCode.code_bounds (f : FaultCode) : 1 ≤ f.code.toNat ∧ f.code.toNat ≤ 6 := by cases f <;> decide

end Sys2Proof.Machine
end

