-- ==== Sys2Proof/Laws/Step.lean ====
section
/-! SUPPORT. Everything a step can do, said once: the decoder's outcomes, a command write, a register write, a host access,
the engine's turn and the step (40_command_protocol.md R111 to R116, 20_memory.md R62, R63, R73). -/

namespace Sys2Proof

/-! ### The decoder -/

theorem decodeOpcode_opcode (i : Instr) : decodeOpcode i.opcode = some i := by cases i <;> rfl

theorem decodeOpcode_eq_some (op : BitVec 4) (i : Instr) : decodeOpcode op = some i ↔ op = i.opcode := by
  revert op
  cases i <;> decide

theorem decodeOpcode_eq_none (op : BitVec 4) : decodeOpcode op = none ↔ op = 0 ∨ 6 ≤ op.toNat := by
  revert op
  decide

/-- A word is its two fields (30_encoding.md R90). -/
theorem eq_append_fields (v : Word) : v = zeroField v ++ opcodeField v := by
  apply BitVec.eq_of_getLsbD_eq
  intro k hk
  rw [BitVec.getLsbD_append, zeroField, opcodeField]
  by_cases h : k < 4
  · simp [h]
  · have : 4 + (k - 4) = k := by omega
    simp only [h, decide_false, BitVec.getLsbD_extractLsb', this]
    have : decide (k - 4 < 28) = true := by simpa using by omega
    simp [this]

/-- A decoded word is the encoding of its command. -/
theorem eq_encode_of_decodeWord (v : Word) (i : Instr) (h : decodeWord v = .ok i) : v = encode i := by
  rw [decodeWord] at h
  split at h
  · cases h
  · next hz =>
    rw [not_not] at hz
    split at h
    · next j hj =>
      cases h
      rw [encode, ← (decodeOpcode_eq_some _ _).1 hj, ← show zeroField v = 0#28 from hz]
      exact eq_append_fields v
    · cases h

/-- A word is refused exactly when it is illegal (30_encoding.md R92). -/
theorem decodeWord_error_iff (v : Word) :
    (∃ e : DecodeError, decodeWord v = .error e) ↔ zeroField v ≠ 0 ∨ opcodeField v = 0 ∨ 6 ≤ (opcodeField v).toNat := by
  rw [decodeWord]
  split
  · next hz => exact ⟨fun _ => .inl hz, fun _ => ⟨_, rfl⟩⟩
  · next hz =>
    split
    · next j hj =>
      constructor
      · rintro ⟨e, he⟩
        cases he
      · intro h
        rcases h with h | h
        · exact absurd h hz
        · rw [(decodeOpcode_eq_none _).2 h] at hj
          cases hj
    · next hn => exact ⟨fun _ => .inr ((decodeOpcode_eq_none _).1 hn), fun _ => ⟨_, rfl⟩⟩

theorem toNat_encode (i : Instr) : (encode i).toNat = i.opcode.toNat := by cases i <;> rfl

theorem opcode_bounds (i : Instr) : 1 ≤ i.opcode.toNat ∧ i.opcode.toNat ≤ 5 := by cases i <;> decide

theorem opcode_eq_five (i : Instr) : i.opcode = 5 ↔ i = .clr := by cases i <;> decide

theorem opcode_eq_three (i : Instr) : i.opcode = 3 ↔ i = .trunc := by cases i <;> decide

end Sys2Proof

namespace Sys2Proof.Machine

/-! ### A command write -/

/-- Everything a command write can do (R111 to R114). -/
theorem cmdWrite_cases (s : State) (v : Word) :
    (s.busy = true ∧ cmdWrite s v = s.reject .busy) ∨
    (s.busy = false ∧ (∃ e : DecodeError, decodeWord v = .error e) ∧ cmdWrite s v = s.reject .illegalWord) ∨
    (∃ i : Instr, s.busy = false ∧ v = encode i ∧ s.err = true ∧ i ≠ .clr ∧ cmdWrite s v = s.reject .faultPending) ∨
    (∃ i : Instr, s.busy = false ∧ v = encode i ∧ (s.err = false ∨ i = .clr) ∧ cmdWrite s v = s.accept i) := by
  cases hb : s.busy
  · cases hd : decodeWord v with
    | error e => exact .inr (.inl ⟨rfl, ⟨e, rfl⟩, by simp [cmdWrite, hb, hd]⟩)
    | ok i =>
      have hv := eq_encode_of_decodeWord v i hd
      by_cases h : s.err = true ∧ i ≠ .clr
      · exact .inr (.inr (.inl ⟨i, rfl, hv, h.1, h.2, by simp [cmdWrite, hb, hd, h.1, h.2]⟩))
      · refine .inr (.inr (.inr ⟨i, rfl, hv, ?_, ?_⟩))
        · by_cases hc : i = .clr
          · exact .inr hc
          · left
            cases he : s.err
            · rfl
            · exact absurd ⟨he, hc⟩ h
        · simp only [cmdWrite, hb, hd, Bool.false_eq_true, if_false, if_neg h]
  · exact .inl ⟨rfl, by simp [cmdWrite, hb]⟩

/-! ### A write of STATUS -/

theorem statusWrite_eq (s : State) (v : Word) :
    statusWrite s v = { s with
      done := s.done && !v.getLsbD 1
      err := s.err && !v.getLsbD 2
      errcode := if v.getLsbD 2 then 0 else s.errcode
      rej := s.rej && !v.getLsbD 3
      rejcause := if v.getLsbD 3 then 0 else s.rejcause
      wrign := s.wrign && !v.getLsbD 4 } := by
  rw [statusWrite]
  cases v.getLsbD 1 <;> cases v.getLsbD 2 <;> cases v.getLsbD 3 <;> cases v.getLsbD 4 <;>
    simp [State.ackDone, State.ackErr, State.ackRej, State.ackWrign]

/-! ### A register write -/

/-- Everything a register write can do, by the class of the register (20_memory.md R63). -/
theorem writeReg_cases (s : State) (v : Word) (r : Reg) :
    (r = .cmd ∧ writeReg s v r = cmdWrite s v) ∨
    (r = .status ∧ writeReg s v r = statusWrite s v) ∨
    (r = .ien ∧ writeReg s v r = ienWrite s v) ∨
    (r.locked = true ∧ s.busy = true ∧ writeReg s v r = s.ignoreWrite) ∨
    (r.locked = true ∧ s.busy = false ∧ writeReg s v r = storeLocked s v r) ∨
    (r.locked = false ∧ r ≠ .cmd ∧ r ≠ .status ∧ r ≠ .ien ∧ writeReg s v r = s) := by
  rw [writeReg]
  split
  · next h => exact .inl ⟨h, rfl⟩
  · next h1 =>
    split
    · next h => exact .inr (.inl ⟨h, rfl⟩)
    · next h2 =>
      split
      · next h => exact .inr (.inr (.inl ⟨h, rfl⟩))
      · next h3 =>
        cases hl : r.locked
        · exact .inr (.inr (.inr (.inr (.inr ⟨rfl, h1, h2, h3, rfl⟩))))
        · cases hb : s.busy
          · exact .inr (.inr (.inr (.inr (.inl ⟨rfl, rfl, rfl⟩))))
          · exact .inr (.inr (.inr (.inl ⟨rfl, rfl, rfl⟩)))

/-! ### The address map (R66) -/

theorem ite_reg_cases {c : Prop} [Decidable c] {a b r : Reg} (h : (if c then a else b) = r) :
    (c ∧ a = r) ∨ (¬ c ∧ b = r) := by
  by_cases hc : c
  · exact .inl ⟨hc, by rwa [if_pos hc] at h⟩
  · exact .inr ⟨hc, by rwa [if_neg hc] at h⟩

/-- The offsets of a register (R66). -/
def Reg.isAt (off : Nat) : Reg → Prop
  | .id => off = 0x000
  | .cfg => off = 0x004
  | .period => off = 0x008
  | .cmd => off = 0x00C
  | .status => off = 0x010
  | .ien => off = 0x014
  | .factorLo => off = 0x018
  | .factorHi => off = 0x01C
  | .keylen => off = 0x020
  | .challen => off = 0x024
  | .bucketLo => off = 0x028
  | .bucketHi => off = 0x02C
  | .dlen => off = 0x030
  | .truncOffset => off = 0x034
  | .truncValue => off = 0x038
  | .codeInt => off = 0x03C
  | .codeStr w => w < 3 ∧ 0x040 + 4 * w ≤ off ∧ off < 0x044 + 4 * w
  | .digest w => w < 16 ∧ 0x080 + 4 * w ≤ off ∧ off < 0x084 + 4 * w
  | .chal w => w < 16 ∧ 0x0C0 + 4 * w ≤ off ∧ off < 0x0C4 + 4 * w
  | .key w => w < 64 ∧ 0x100 + 4 * w ≤ off ∧ off < 0x104 + 4 * w
  | .reserved => True

theorem isAt_regAt (off : Nat) : (regAt off).isAt off := by
  generalize h : regAt off = r
  unfold regAt at h
  repeat
    rcases ite_reg_cases h with ⟨hc, h⟩ | ⟨-, h⟩
    · subst h; simp only [Reg.isAt]; first | assumption | omega
  subst h
  trivial


theorem regAt_codeStr (w : Nat) (h : w < 3) : regAt (0x040 + 4 * w) = .codeStr w := by
  interval_cases w <;> rfl

theorem regAt_digest (w : Nat) (h : w < 16) : regAt (0x080 + 4 * w) = .digest w := by
  interval_cases w <;> rfl

theorem regAt_chal (w : Nat) (h : w < 16) : regAt (0x0C0 + 4 * w) = .chal w := by
  interval_cases w <;> rfl

theorem regAt_key (w : Nat) (h : w < 64) : regAt (0x100 + 4 * w) = .key w := by
  interval_cases w <;> rfl

theorem regAt_reserved (off : Nat) (h : (0x04C ≤ off ∧ off < 0x080) ∨ 0x200 ≤ off) : regAt off = .reserved := by
  unfold regAt
  repeat rw [if_neg (by omega)]

theorem regAt_locked (off : Nat) (h : 0x080 ≤ off) (h' : off < 0x200) : (regAt off).locked = true := by
  unfold regAt
  repeat
    rw [if_neg (by omega : ¬ off = _)]
  rw [if_neg (by omega)]
  by_cases h1 : off < 0x0C0
  · rw [if_pos ⟨h, h1⟩]; rfl
  rw [if_neg (by omega)]
  by_cases h2 : off < 0x100
  · rw [if_pos (by omega)]; rfl
  rw [if_neg (by omega), if_pos (by omega)]; rfl

/-! ### A host access -/

/-- Everything a host access can do (20_memory.md R60 to R63, R68). -/
theorem hostAccess_cases (s : State) (a : Access) :
    (4096 ≤ a.off ∧ hostAccess s a = .refused .outsideWindow) ∨
    (a.off < 4096 ∧ ¬ (a.size = 4 ∧ a.off % 4 = 0) ∧ hostAccess s a = .next (s.respond .error)) ∨
    (a.off < 4096 ∧ a.size = 4 ∧ a.off % 4 = 0 ∧ a.kind = .read ∧
      hostAccess s a = .next (s.respond (.okRead (readReg s (regAt a.off))))) ∨
    (a.off < 4096 ∧ a.size = 4 ∧ a.off % 4 = 0 ∧ a.kind = .write ∧
      hostAccess s a = .next ((writeReg s a.wdata (regAt a.off)).respond .okWrite)) := by
  by_cases hw : a.off < 4096
  · have hin : inWindow a.off = true := by simpa [inWindow] using hw
    by_cases hf : a.size = 4 ∧ a.off % 4 = 0
    · have hwf : wellFormedAccess a.off a.size = true := by simp [wellFormedAccess, hf.1, hf.2]
      cases hk : a.kind
      · exact .inr (.inr (.inl ⟨hw, hf.1, hf.2, rfl, by simp [hostAccess, hin, hwf, hk]⟩))
      · exact .inr (.inr (.inr ⟨hw, hf.1, hf.2, rfl, by simp [hostAccess, hin, hwf, hk]⟩))
    · have hwf : wellFormedAccess a.off a.size = false := by
        simpa [wellFormedAccess] using hf
      exact .inr (.inl ⟨hw, hf, by simp [hostAccess, hin, hwf]⟩)
  · have hin : inWindow a.off = false := by simpa [inWindow] using hw
    exact .inl ⟨by omega, by simp [hostAccess, hin]⟩

/-- A well-formed write inside the window. -/
theorem hostAccess_write (s : State) (off : Nat) (v : Word) (hw : off < 4096) (hm : off % 4 = 0) :
    hostAccess s ⟨.write, off, 4, v⟩ = .next ((writeReg s v (regAt off)).respond .okWrite) := by
  have hin : inWindow off = true := by simpa [inWindow] using hw
  simp [hostAccess, hin, wellFormedAccess, hm]

/-- A well-formed read inside the window. -/
theorem hostAccess_read (s : State) (off : Nat) (d : Word) (hw : off < 4096) (hm : off % 4 = 0) :
    hostAccess s ⟨.read, off, 4, d⟩ = .next (s.respond (.okRead (readReg s (regAt off)))) := by
  have hin : inWindow off = true := by simpa [inWindow] using hw
  simp [hostAccess, hin, wellFormedAccess, hm]

/-- Where a host access goes on, nothing but the answer changed or a register was written (R62, R63). -/
theorem hostAccess_next {s t : State} {a : Access} (h : hostAccess s a = .next t) :
    (∃ r : Response, t = s.respond r) ∨
    (∃ (off : Nat) (v : Word), a = ⟨.write, off, 4, v⟩ ∧ t = (writeReg s v (regAt off)).respond .okWrite) := by
  rcases hostAccess_cases s a with ⟨-, e⟩ | ⟨-, -, e⟩ | ⟨-, -, -, -, e⟩ | ⟨-, hz, -, hk, e⟩ <;> rw [e] at h <;> cases h
  · exact .inl ⟨_, rfl⟩
  · exact .inl ⟨_, rfl⟩
  · right
    obtain ⟨k, off, z, v⟩ := a
    simp only at hz hk
    subst hz hk
    exact ⟨off, v, rfl, rfl⟩

/-! ### The engine's turn and the step -/

theorem engineStep_idle (s : State) (hb : s.busy = false) : engineStep s = .next s := by simp [engineStep, hb]

theorem engineStep_busy (s : State) (i : Instr) (hb : s.busy = true) (hl : decodeOpcode s.lastop = some i) :
    engineStep s = exec i s := by simp [engineStep, hb, hl]

/-- Everything the engine's turn can do (R116). -/
theorem engineStep_cases (s : State) :
    (s.busy = false ∧ engineStep s = .next s) ∨
    (∃ i : Instr, s.busy = true ∧ s.lastop = i.opcode ∧ engineStep s = exec i s) ∨
    (s.busy = true ∧ decodeOpcode s.lastop = none ∧ engineStep s = .fault .lastopNotACommand) := by
  cases hb : s.busy
  · exact .inl ⟨rfl, engineStep_idle s hb⟩
  · cases hl : decodeOpcode s.lastop with
    | none => exact .inr (.inr ⟨rfl, rfl, by simp [engineStep, hb, hl]⟩)
    | some i => exact .inr (.inl ⟨i, rfl, (decodeOpcode_eq_some _ _).1 hl, engineStep_busy s i hb hl⟩)

/-- Where the engine's turn goes on, nothing happened or a command completed (R116). -/
theorem engineStep_next {s t : State} (h : engineStep s = .next t) :
    t = s ∨ ∃ i : Instr, s.busy = true ∧ s.lastop = i.opcode ∧ exec i s = .next t := by
  rcases engineStep_cases s with ⟨-, e⟩ | ⟨i, hb, hl, e⟩ | ⟨-, -, e⟩ <;> rw [e] at h
  · cases h
    exact .inl rfl
  · exact .inr ⟨i, hb, hl, h⟩
  · cases h

theorem step_nil (s : State) (h : s.pending = []) : step s = engineStep s := by simp [step, nextStep, h]

theorem step_host (s : State) (a : Access) (rest : List Event) (h : s.pending = .host a :: rest) :
    step s = hostAccess { s with pending := rest } a := by simp [step, nextStep, h, eventStep]

theorem step_engine (s : State) (rest : List Event) (h : s.pending = .engine :: rest) :
    step s = engineStep { s with pending := rest } := by simp [step, nextStep, h, eventStep]

theorem step_reset (s : State) (rest : List Event) (h : s.pending = .reset :: rest) :
    step s = .next { State.reset with pending := rest } := by simp [step, nextStep, h, eventStep, resetStep]

/-- Everything a step can do (20_memory.md R73). -/
theorem step_cases (s : State) :
    (s.pending = [] ∧ step s = engineStep s) ∨
    (∃ rest : List Event, s.pending = .engine :: rest ∧ step s = engineStep { s with pending := rest }) ∨
    (∃ rest : List Event, s.pending = .reset :: rest ∧ step s = .next { State.reset with pending := rest }) ∨
    (∃ (a : Access) (rest : List Event), s.pending = .host a :: rest ∧
      step s = hostAccess { s with pending := rest } a) := by
  cases hp : s.pending with
  | nil => exact .inl ⟨rfl, step_nil s hp⟩
  | cons e rest =>
    cases e with
    | host a => exact .inr (.inr (.inr ⟨a, rest, rfl, step_host s a rest hp⟩))
    | engine => exact .inr (.inl ⟨rest, rfl, step_engine s rest hp⟩)
    | reset => exact .inr (.inr (.inl ⟨rest, rfl, step_reset s rest hp⟩))

end Sys2Proof.Machine
end

