-- ==== Sys2Proof/Laws/Buffers.lean ====
section
/-! SUPPORT. The buffers of the state: a word is four bytes (20_memory.md R64), every operation on a buffer keeps the
canonical form, and what a code string write leaves (43_codegen_quant_trunc.md R199). -/

namespace Sys2Proof.Machine

/-! ### Words of a buffer -/

/-- A word reads as its four bytes, the lowest index most significant (R64). -/
theorem Memory.readWord_eq (m : Memory) (w : Nat) :
    m.readWord w = m.read (4 * w) ++ m.read (4 * w + 1) ++ m.read (4 * w + 2) ++ m.read (4 * w + 3) := by
  have append (n k : Nat) (x : BitVec n) (y : BitVec k) : (x ++ y).toNat = x.toNat * 2 ^ k + y.toNat := by
    rw [BitVec.toNat_append, Nat.shiftLeft_eq, mul_comm, ← Nat.two_pow_add_eq_or_of_lt y.isLt]
  have bytes : m.readBytes (4 * w) 4 = [m.read (4 * w), m.read (4 * w + 1), m.read (4 * w + 2), m.read (4 * w + 3)] := rfl
  have h0 := (m.read (4 * w)).isLt
  have h1 := (m.read (4 * w + 1)).isLt
  have h2 := (m.read (4 * w + 2)).isLt
  have h3 := (m.read (4 * w + 3)).isLt
  apply BitVec.eq_of_toNat_eq
  rw [append, append, append, Memory.readWord, BitVec.toNat_ofNat, bytes, be_four]
  omega

/-- Byte `j` of a word, the most significant first (R64). -/
theorem getD_ser_word (v : Word) (j : Nat) (h : j < 4) : (ser 4 v.toNat).getD j 0 = v.extractLsb' (24 - 8 * j) 8 := by
  rw [getD_ser _ _ _ h]
  apply BitVec.eq_of_toNat_eq
  rw [BitVec.toNat_ofNat, BitVec.extractLsb'_toNat, Nat.shiftRight_eq_div_pow]
  interval_cases j <;> rfl

/-! ### The code string -/

/-- What the write of a code string leaves at each index (R199). -/
theorem read_writeCode {m : Memory} (h : m.wf 12 = true) (code d : Nat) (hd : d ≤ 10) (i : Nat) :
    (m.writeBytes 0 (fmt code d)).read i =
      if i < d then BitVec.ofNat 8 (0x30 + code / 10 ^ (d - 1 - i) % 10) else m.read i := by
  rw [Memory.read_writeBytes h 0 _ (by rw [length_fmt]; omega), length_fmt]
  by_cases hi : i < d
  · rw [if_pos (by omega), if_pos hi, Nat.sub_zero, getD_fmt _ _ _ hi]
  · rw [if_neg (by omega), if_neg hi]

theorem wf_writeCode {m : Memory} (h : m.wf 12 = true) (code d : Nat) (hd : d ≤ 10) :
    (m.writeBytes 0 (fmt code d)).wf 12 = true :=
  Memory.wf_writeBytes h _ _ (by rw [length_fmt]; omega)

/-! ### The canonical form is kept -/

theorem buffersWf_reset (p : List Event) : BuffersWf { State.reset with pending := p } := ⟨rfl, rfl, rfl, rfl⟩

theorem buffersWf_storeLocked {s : State} (h : BuffersWf s) (v : Word) (off : Nat) :
    BuffersWf (storeLocked s v (regAt off)) := by
  have hat := isAt_regAt off
  obtain ⟨h1, h2, h3, h4⟩ := h
  cases hr : regAt off with
  | digest w => exact ⟨h1, Memory.wf_writeWord h2 w (by rw [hr] at hat; have := hat.1; show _ ≤ 64; omega) v, h3, h4⟩
  | chal w => exact ⟨h1, h2, Memory.wf_writeWord h3 w (by rw [hr] at hat; have := hat.1; show _ ≤ 64; omega) v, h4⟩
  | key w => exact ⟨h1, h2, h3, Memory.wf_writeWord h4 w (by rw [hr] at hat; have := hat.1; show _ ≤ 256; omega) v⟩
  | _ => exact ⟨h1, h2, h3, h4⟩

theorem buffersWf_accept {s : State} (h : BuffersWf s) (i : Instr) : BuffersWf (s.accept i) := by
  obtain ⟨h1, h2, h3, h4⟩ := h
  cases i <;> first | exact ⟨rfl, rfl, h3, h4⟩ | exact ⟨rfl, h2, h3, h4⟩

theorem buffersWf_exec {s t : State} {i : Instr} (h : BuffersWf s) (he : exec i s = .next t) : BuffersWf t := by
  obtain ⟨h1, h2, h3, h4⟩ := h
  rcases exec_cases i s with ⟨-, f, hx⟩ | ⟨-, hd, -, -, A, -, hx⟩ | ⟨-, -, A, -, hx⟩ | ⟨-, hd, -, -, -, hx⟩ | ⟨-, -, hx⟩ |
    ⟨-, hx⟩
  all_goals rw [hx] at he; cases he
  · exact ⟨h1, h2, h3, h4⟩
  · exact ⟨wf_writeCode h1 _ _ ((digitsIllegal_eq_false s).1 hd).2, h2, h3, h4⟩
  · refine ⟨h1, Memory.wf_writeBytes h2 _ _ ?_, h3, h4⟩
    have := digestBytes_bounds A
    rw [length_digestFn]
    show 0 + A.digestBytes ≤ 64
    omega
  · exact ⟨wf_writeCode h1 _ _ ((digitsIllegal_eq_false s).1 hd).2, h2, h3, h4⟩
  · exact ⟨h1, h2, h3, h4⟩
  · exact ⟨rfl, rfl, rfl, rfl⟩

/-! ### The blocks of a padded message -/

/-- Cutting a byte string of whole blocks loses nothing of it (42_sha_primitives.md R160). -/
theorem flatten_blocksOf (B n : Nat) (bs : List Byte) (h : bs.length = n * B) :
    (blocksOf B n bs).flatten = bs ∧ ∀ b ∈ blocksOf B n bs, b.length = B := by
  induction n generalizing bs with
  | zero =>
    have : bs = [] := List.length_eq_zero_iff.1 (by omega)
    subst this
    exact ⟨rfl, by simp [blocksOf]⟩
  | succ n ih =>
    have hmul : (n + 1) * B = n * B + B := by ring
    obtain ⟨h1, h2⟩ := ih (bs.drop B) (by rw [List.length_drop]; omega)
    rw [blocksOf, List.flatten_cons, h1, List.take_append_drop]
    refine ⟨rfl, fun b hb => ?_⟩
    rcases List.mem_cons.1 hb with rfl | hb
    · rw [List.length_take]
      omega
    · exact h2 b hb

/-! ### Runs -/

theorem run_next {s u : State} (k : Nat) (h : step s = .next u) :
    Sys2Proof.core.run (k + 1) s = Sys2Proof.core.run k u := by
  simp only [Host.Core.run]
  rw [show Sys2Proof.core.step s = .next u from h]

end Sys2Proof.Machine
end

