-- ==== Sys2Proof/Laws/PerInstr.lean ====
section
/-! SUPPORT. Statements made of every command, one lemma per constructor. -/

namespace Sys2Proof.Laws.DecodeEncode

/-- The word of a command decodes to that command and carries its opcode below zero bits (30_encoding.md R90, R91). -/
def Statement (i : Instr) : Prop :=
  decodeWord (encode i) = .ok i ∧ opcodeField (encode i) = i.opcode ∧ zeroField (encode i) = 0#28 ∧
    wellFormedWord (encode i) = true

theorem gen : Statement .gen := ⟨rfl, rfl, rfl, rfl⟩

theorem hmac : Statement .hmac := ⟨rfl, rfl, rfl, rfl⟩

theorem trunc : Statement .trunc := ⟨rfl, rfl, rfl, rfl⟩

theorem quant : Statement .quant := ⟨rfl, rfl, rfl, rfl⟩

theorem clr : Statement .clr := ⟨rfl, rfl, rfl, rfl⟩

end Sys2Proof.Laws.DecodeEncode
end

