-- ==== Sys2Proof/Machine/Script.lean ====
section
/-! DEFINITION. Host scripts (30_encoding.md R98 to R100): the primitive lines, the pseudo-lines and their expansion into
what happens on the block. A script is a program for the host; the block stores none (log entry 3). -/

namespace Sys2Proof.Machine

/-- The offset of a register of the window (20_memory.md R66); of the reserved offsets, the first. -/
def Reg.offset : Reg → Nat
  | .id => 0x000
  | .cfg => 0x004
  | .period => 0x008
  | .cmd => 0x00C
  | .status => 0x010
  | .ien => 0x014
  | .factorLo => 0x018
  | .factorHi => 0x01C
  | .keylen => 0x020
  | .challen => 0x024
  | .bucketLo => 0x028
  | .bucketHi => 0x02C
  | .dlen => 0x030
  | .truncOffset => 0x034
  | .truncValue => 0x038
  | .codeInt => 0x03C
  | .codeStr w => 0x040 + 4 * w
  | .digest w => 0x080 + 4 * w
  | .chal w => 0x0C0 + 4 * w
  | .key w => 0x100 + 4 * w
  | .reserved => 0x04C

/-- The codes of CFG.ALG (R95). -/
def algCode : Alg → BitVec 2
  | .sha1 => 0
  | .sha256 => 1
  | .sha512 => 2

/-- A line of a host script: the primitive lines of R98, then the pseudo-lines of R99. -/
inductive Line
  | wr (r : Reg) (v : Word)
  | rd (r : Reg)
  | command (i : Instr)
  | wait
  | reset
  | config (a : Alg) (isHotp : Bool) (digits : BitVec 4)
  | factor64 (v : DWord)
  | keyBytes (bs : List Byte)
  | digestBytes (bs : List Byte)
  | ack
  | run (i : Instr)
  | hotp (counter : DWord)
  | totp (seconds : DWord)
deriving DecidableEq, Repr

/-- `WR <reg>, <value>`. -/
def wrEvent (r : Reg) (v : Word) : Event := .host ⟨.write, r.offset, 4, v⟩

/-- `RD <reg>`. -/
def rdEvent (r : Reg) : Event := .host ⟨.read, r.offset, 4, 0⟩

/-- The writes of `n` buffer words from word `w` on, the last padded with 0x00 bytes on the right (R99). -/
def wordWrites (buffer : Nat → Reg) : Nat → Nat → List Byte → List Event
  | 0, _, _ => []
  | n + 1, w, bs =>
    wrEvent (buffer w) (BitVec.ofNat 32 (be ((bs ++ zeros 4).take 4))) :: wordWrites buffer n (w + 1) (bs.drop 4)

/-- `FACTOR64 <v>`: the low half, then the high half (R99). -/
def factorEvents (v : DWord) : List Event :=
  [wrEvent .factorLo (v.extractLsb' 0 32), wrEvent .factorHi (v.extractLsb' 32 32)]

/-- `RUN <MNEMONIC>`: the command, then `WAIT` (R99). -/
def runEvents (i : Instr) : List Event := [wrEvent .cmd (encode i), .engine]

/-- What a line makes happen, in order (R98, R99). `WAIT` is the engine's turn. -/
def Line.events : Line → List Event
  | .wr r v => [wrEvent r v]
  | .rd r => [rdEvent r]
  | .command i => [wrEvent .cmd (encode i)]
  | .wait => [.engine]
  | .reset => [.reset]
  | .config a isHotp digits => [wrEvent .cfg (0#20 ++ digits ++ 0#3 ++ BitVec.ofBool isHotp ++ 0#2 ++ algCode a)]
  | .factor64 v => factorEvents v
  | .keyBytes bs =>
    wrEvent .keylen (BitVec.ofNat 32 bs.length) :: wordWrites .key ((bs.length + 3) / 4) 0 bs
  | .digestBytes bs =>
    wrEvent .dlen (BitVec.ofNat 32 bs.length) :: wordWrites .digest ((bs.length + 3) / 4) 0 bs
  | .ack => [wrEvent .status 0x0000001E]
  | .run i => runEvents i
  | .hotp counter => factorEvents counter ++ runEvents .gen
  | .totp seconds => factorEvents seconds ++ runEvents .gen

/-- What a script makes happen. -/
def scriptEvents (ls : List Line) : List Event := (ls.map Line.events).flatten

/-- The encoding of a script: the list of its bus transactions (R100). -/
def scriptAccesses (ls : List Line) : List Access :=
  (scriptEvents ls).filterMap fun e =>
    match e with
    | .host a => some a
    | .engine => none
    | .reset => none

/-- The state with a script placed before whatever is pending already. -/
def State.withScript (s : State) (ls : List Line) : State := { s with pending := scriptEvents ls ++ s.pending }

end Sys2Proof.Machine
end

