-- ==== Sys2Proof/Tests/Slice0.lean ====
section
/-! SUPPORT. The model's own tests: the words of 30_encoding.md section 1 written out bit by bit, ill-formed terms, one step
on a small state per command with the results of 95_test_vectors.md and 42_sha_primitives.md R178, and a witness for the
hypotheses of every statement that has some. -/

open Sys2Proof Sys2Proof.Machine

namespace Sys2Proof.Tests

/-! ### Small states -/

/-- The 20-byte key of 95_test_vectors.md, ASCII "12345678901234567890". -/
def key20 : Memory :=
  Memory.writeBytes [] 0
    [0x31, 0x32, 0x33, 0x34, 0x35, 0x36, 0x37, 0x38, 0x39, 0x30, 0x31, 0x32, 0x33, 0x34, 0x35, 0x36, 0x37, 0x38, 0x39, 0x30]

/-- SHA1, TOTP with a period of 30, `k20` (95_test_vectors.md section 1.1). -/
def withKey20 (digits : BitVec 4) (factor : DWord) : State :=
  { State.reset with digits := digits, keylen := 20, key := key20, factor := factor }

/-- The digest of a TRUNC vector (95_test_vectors.md section 4). -/
def withDigest (digits : BitVec 4) (dg : List Byte) : State :=
  { State.reset with digits := digits, dlen := BitVec.ofNat 7 dg.length, digest := Memory.writeBytes [] 0 dg }

/-- Digest T1: 10 11 .. 22 0f. -/
def digestT1 : List Byte := (List.range 19).map (fun i => BitVec.ofNat 8 (0x10 + i)) ++ [0x0f]

/-- A command in progress, a rejected write recorded, operands in place. -/
def running (i : Instr) : State :=
  { State.reset.accept i with
    key := [(0, 0x31)], keylen := 1, factor := 59, chal := [(63, 0x01)], challen := 64, rej := true, rejcause := 1 }

/-- A code in place, the state a GEN leaves; a write was ignored while it ran. -/
def finished : State :=
  { State.reset with
    done := true, lastop := 1, bucket := 1, codeInt := 287082, wrign := true, key := [(0, 0x31)], keylen := 1, factor := 59
    codeStr := [(0, 0x32), (1, 0x38), (2, 0x37), (3, 0x30), (4, 0x38), (5, 0x32)] }

/-- A fault in place, the state a QUANT with a period of 0 leaves. -/
def faulted : State := { State.reset with period := 0, err := true, errcode := 5, lastop := 4, errIe := true }

/-- The state a step that goes on ends in. -/
def after (o : Host.Outcome State Fault Refusal) : State :=
  match o with
  | .next s => s
  | .fault _ => State.reset
  | .refused _ => State.reset

/-- The host's access comes next, then the engine's turn. -/
def withAccess (s : State) (a : Access) : State := { s with pending := [.host a, .engine] }

/-- A write of a word comes next. -/
def writing (s : State) (off : Nat) (v : Word) : State := withAccess s ⟨.write, off, 4, v⟩

/-! ### Words written out bit by bit (30_encoding.md R90, R91) -/

theorem test_decode_gen : decodeWord 0b00000000000000000000000000000001 = .ok .gen := by rfl

theorem test_decode_hmac : decodeWord 0b00000000000000000000000000000010 = .ok .hmac := by rfl

theorem test_decode_trunc : decodeWord 0b00000000000000000000000000000011 = .ok .trunc := by rfl

theorem test_decode_quant : decodeWord 0b00000000000000000000000000000100 = .ok .quant := by rfl

theorem test_decode_clr : decodeWord 0b00000000000000000000000000000101 = .ok .clr := by rfl

/-- R92: opcode 0, opcodes 6 and 15, and a bit above the opcode. -/
theorem test_decode_illegal :
    decodeWord 0b00000000000000000000000000000000 = .error (.reservedOpcode 0) ∧
    decodeWord 0b00000000000000000000000000000110 = .error (.reservedOpcode 6) ∧
    decodeWord 0b00000000000000000000000000001111 = .error (.reservedOpcode 15) ∧
    decodeWord 0b00000000000000000000000000010001 = .error .zeroFieldNotZero ∧
    decodeWord 0b10000000000000000000000000000001 = .error .zeroFieldNotZero := ⟨rfl, rfl, rfl, rfl, rfl⟩

/-- R94: the field LASTOP of every accepted command decodes back to it. -/
theorem test_opcode_decodes : ∀ i ∈ [Instr.gen, .hmac, .trunc, .quant, .clr], decodeOpcode i.opcode = some i := by decide

/-! ### Ill-formed terms are refused by their checks -/

theorem test_illformed_word_zero_field : wellFormedWord 0x00000011 = false := by decide

theorem test_illformed_word_opcode_zero : wellFormedWord 0x00000000 = false := by decide

theorem test_illformed_word_opcode_six : wellFormedWord 0x00000006 = false := by decide

theorem test_wellformed_word_ends : wellFormedWord 0x00000001 = true ∧ wellFormedWord 0x00000005 = true := by decide

theorem test_illformed_access_size : wellFormedAccess 0x00C 2 = false := by decide

theorem test_illformed_access_alignment : wellFormedAccess 0x00D 4 = false := by decide

theorem test_illformed_access_outside : inWindow 0x1000 = false ∧ inWindow 0xFFF = true := by decide

theorem test_illformed_memory : Memory.wf 64 [(3, 1), (2, 1)] = false ∧ Memory.wf 64 [(3, 0)] = false ∧
    Memory.wf 64 [(64, 1)] = false ∧ Memory.wf 64 [(2, 1), (63, 5)] = true := by decide

/-- Every command is well formed (R90): there is no ill-formed one to refuse. -/
theorem test_wellformed_commands : ∀ i ∈ [Instr.gen, .hmac, .trunc, .quant, .clr], i.wellFormed = true := by decide

/-! ### Buffers -/

theorem test_memory_write_zero_unlists : Memory.write [(3, 7)] 3 0 = [] := by decide

theorem test_word_is_big_endian : Memory.writeWord [] 1 0x11002233 = [(4, 0x11), (6, 0x22), (7, 0x33)] := by decide

/-! ### Hash primitives (42_sha_primitives.md R178, message "abc") -/

theorem test_sha1_abc : be (hash .sha1 [0x61, 0x62, 0x63]) = 0xa9993e364706816aba3e25717850c26c9cd0d89d := by
  decide +kernel

theorem test_sha256_abc : be (hash .sha256 [0x61, 0x62, 0x63]) =
    0xba7816bf8f01cfea414140de5dae2223b00361a396177a9cb410ff61f20015ad := by decide +kernel

theorem test_sha512_abc : be (hash .sha512 [0x61, 0x62, 0x63]) =
    0xddaf35a193617abacc417349ae20413112e6fa4e89a97ea20a9eeee64b55d39a2192992a274fc1a836ba3c23a3feebbd454d4423643ce80e2a9ac94fa54ca49f := by
  decide +kernel

/-! ### One step per command -/

/-- 95_test_vectors.md section 1.1: time 59, 8 digits, the code "94287082". -/
theorem test_gen_totp : (after (step ((withKey20 8 59).withFetchWord 32 1))).codeInt = 94287082 := by decide +kernel

/-- 95_test_vectors.md section 1.2: counter 0, 6 digits, the string "755224", the rest of CODE_STR zero. -/
theorem test_gen_hotp_string :
    let t := after (step (({ withKey20 6 0 with mode := 1 } : State).withFetchWord 32 1))
    t.codeStr.readBytes 0 12 = [0x37, 0x35, 0x35, 0x32, 0x32, 0x34, 0, 0, 0, 0, 0, 0] := by decide +kernel

/-- 95_test_vectors.md section 2.1: the digest of factor 0. -/
theorem test_hmac_digest :
    be ((after (step ((withKey20 6 0).withFetchWord 32 2))).digest.readBytes 0 20) =
      0xcc93cf18508d94934c64b65d8ba7667fb7cde4b0 := by decide +kernel

/-- 95_test_vectors.md section 4, T1: offset 15 in a 20-byte digest reads bytes 15 to 18. -/
theorem test_trunc_offset_15 :
    let t := after (exec .trunc (withDigest 6 digestT1))
    t.truncOffset = 15 ∧ t.truncValue = 0x1F202122 ∧ t.done = true := by decide +kernel

/-- 43_codegen_quant_trunc.md R197: the top bit is masked off, and with 10 digits the code is the value (R198). -/
theorem test_trunc_masks_top_bit :
    (after (exec .trunc (withDigest 10 [0xFF, 0xFF, 0xFF, 0xFF, 0x00]))).codeInt = 0x7FFFFFFF := by decide +kernel

/-- 95_test_vectors.md section 1.3: floor_div(-1, 30) = -1, not 0. -/
theorem test_quant_negative :
    (after (exec .quant { State.reset with factor := 0xFFFFFFFFFFFFFFFF })).bucket = 0xFFFFFFFFFFFFFFFF := by decide +kernel

/-- 43_codegen_quant_trunc.md R191: -31 by 30 rounds down to -2. -/
theorem test_quant_rounds_down :
    (after (exec .quant { State.reset with factor := BitVec.ofInt 64 (-31) })).bucket = BitVec.ofInt 64 (-2) := by
  decide +kernel

/-- 40_command_protocol.md R120: CLR clears a recorded fault and the operands, and keeps PERIOD and IEN. -/
theorem test_clr_after_fault :
    let t := after (step (({ faulted with factor := 7, keylen := 3 } : State).withFetchWord 32 5))
    t.err = false ∧ t.errcode = 0 ∧ t.done = true ∧ t.factor = 0 ∧ t.keylen = 0 ∧ t.period = 0 ∧ t.errIe = true := by
  decide +kernel

/-! ### Faults, the window and the protocol -/

/-- 95_test_vectors.md section 1.4: KEYLEN = 300, GEN ends with InvalidSecret; STATUS = 0x00001104. -/
theorem test_gen_long_key :
    readReg (after (step (({ State.reset with keylen := 300 } : State).withFetchWord 32 1))) .status = 0x00001104 := by
  decide +kernel

/-- 40_command_protocol.md R112: the word 0 is illegal, 3 in REJCAUSE. -/
theorem test_illegal_word_rejected : readReg (after (step (State.reset.withFetchWord 32 0))) .status = 0x00030008 := by
  decide

/-- 70_reset_and_hazards.md R310: a write to KEY0 while busy is ignored and recorded. -/
theorem test_locked_write :
    let t := after (step (writing (running .gen) 0x100 0xFFFFFFFF))
    t.key = [(0, 0x31)] ∧ t.wrign = true ∧ t.busy = true := by decide

/-- 20_memory.md R68: a half-word read answers error. -/
theorem test_malformed_read : (after (step (withAccess State.reset ⟨.read, 0x000, 2, 0⟩))).resp = some .error := by decide

/-- 10_state.md R21: ID reads "OTP1" in ASCII. -/
theorem test_read_id : (after (step (withAccess State.reset ⟨.read, 0x000, 4, 0⟩))).resp = some (.okRead 0x4F545031) := by
  decide

/-- 95_test_vectors.md section 9, program P1: the bus transactions of its first lines. -/
theorem test_script_encoding :
    (scriptAccesses [.config .sha1 true 6, .keyBytes (key20.readBytes 0 20), .hotp 9, .rd .status]).map
        (fun a => (a.kind, a.off, a.wdata)) =
      [(.write, 0x004, 0x00000610), (.write, 0x020, 0x00000014), (.write, 0x100, 0x31323334), (.write, 0x104, 0x35363738),
        (.write, 0x108, 0x39303132), (.write, 0x10C, 0x33343536), (.write, 0x110, 0x37383930),
        (.write, 0x018, 0x00000009), (.write, 0x01C, 0), (.write, 0x00C, 1), (.read, 0x010, 0)] := by decide +kernel

/-- 30_encoding.md R99: a key of 5 bytes takes two words, the last padded with 0x00 on the right. -/
theorem test_script_keybytes :
    Line.events (.keyBytes [1, 2, 3, 4, 5]) =
      [wrEvent .keylen 5, wrEvent (.key 0) 0x01020304, wrEvent (.key 1) 0x05000000] := by decide +kernel

/-! ### States of the invariant other than the reset state -/

theorem codeBytes_of_cells (m : Memory) (h : ∀ c ∈ m, isCodeByte c.2 = true) (i : Nat) : isCodeByte (m.read i) = true := by
  induction m with
  | nil => rfl
  | cons c m ih =>
    rw [Memory.read]
    split
    · exact h c (List.mem_cons_self ..)
    · split
      · decide
      · exact ih (fun d hd => h d (List.mem_cons_of_mem _ hd))

theorem inv_running_gen : Inv (running .gen) where
  buffers := ⟨by decide, by decide, by decide, by decide⟩
  flags := ⟨by decide, by decide, by decide, by decide, by decide, by decide, by decide, by decide⟩
  results := ⟨by decide, by decide, codeBytes_of_cells _ (by decide)⟩
  busyOutputs := ⟨by decide, by decide⟩

theorem inv_running_clr : Inv (running .clr) where
  buffers := ⟨by decide, by decide, by decide, by decide⟩
  flags := ⟨by decide, by decide, by decide, by decide, by decide, by decide, by decide, by decide⟩
  results := ⟨by decide, by decide, codeBytes_of_cells _ (by decide)⟩
  busyOutputs := ⟨by decide, by decide⟩

theorem inv_finished : Inv finished where
  buffers := ⟨by decide, by decide, by decide, by decide⟩
  flags := ⟨by decide, by decide, by decide, by decide, by decide, by decide, by decide, by decide⟩
  results := ⟨by decide, by decide, codeBytes_of_cells _ (by decide)⟩
  busyOutputs := ⟨by decide, by decide⟩

theorem inv_faulted : Inv faulted where
  buffers := ⟨by decide, by decide, by decide, by decide⟩
  flags := ⟨by decide, by decide, by decide, by decide, by decide, by decide, by decide, by decide⟩
  results := ⟨by decide, by decide, codeBytes_of_cells _ (by decide)⟩
  busyOutputs := ⟨by decide, by decide⟩

/-! ### Witnesses: for each statement with hypotheses, states and operands that meet them, each clause at its bounds -/

theorem witness_DecodeEncodeAgree :
    Instr.gen.wellFormed = true ∧ decodeWord 0x00000005 = .ok .clr ∧ decodeTableWord 32 5 = some .clr ∧
    decodeTableWord 32 1 = some .gen := by
  exact ⟨rfl, rfl, by decide, by decide⟩

theorem witness_StepRunsCommandInProgress :
    (running .gen).busy = true ∧ decodeOpcode (running .gen).lastop = some .gen ∧ (running .gen).pending = [] ∧
    ({ running .gen with pending := [.engine, .reset] } : State).pending = .engine :: [.reset] := by decide

theorem witness_StepTakesPendingEvent :
    (withAccess (running .gen) ⟨.read, 0, 4, 0⟩).pending = .host ⟨.read, 0, 4, 0⟩ :: [.engine] ∧
    finished.busy = false ∧ finished.pending = [] := by decide

/-- The first and the last offset of the window. -/
theorem witness_ReadChangesNothing : (0 < 4096 ∧ 0 % 4 = 0) ∧ 4092 < 4096 ∧ 4092 % 4 = 0 := by decide

/-- The first and the last word of each buffer, in a state of the invariant, idle. -/
theorem witness_BufferWordsBigEndian :
    (0 < 3 ∧ 2 < 3) ∧ (0 < 16 ∧ 15 < 16) ∧ (0 < 64 ∧ 63 < 64) ∧ finished.busy = false := by decide

theorem witness_BufferWordsBigEndian_wf : BuffersWf finished := ⟨by decide, by decide, by decide, by decide⟩

theorem witness_IdleWriteStoresFields : finished.busy = false ∧ faulted.busy = false := by decide

theorem witness_LockedWriteIgnoredWhileBusy :
    (running .gen).busy = true ∧ ∀ off ∈ [0x004, 0x008, 0x018, 0x01C, 0x020, 0x024, 0x030, 0x080, 0x1FC],
      off = 0x004 ∨ off = 0x008 ∨ off = 0x018 ∨ off = 0x01C ∨ off = 0x020 ∨ off = 0x024 ∨ off = 0x030 ∨
        (0x080 ≤ off ∧ off < 0x200 ∧ off % 4 = 0) := by decide

theorem witness_ReservedReadZeroWriteIgnored :
    (∀ off ∈ [0x04C, 0x07C, 0x200, 0xFFC],
      off % 4 = 0 ∧ ((0x04C ≤ off ∧ off < 0x080) ∨ (0x200 ≤ off ∧ off < 0x1000))) ∧
    (∀ off ∈ [0x000, 0x028, 0x02C, 0x034, 0x048],
      off % 4 = 0 ∧ (off = 0x000 ∨ off = 0x028 ∨ off = 0x02C ∨ (0x034 ≤ off ∧ off < 0x04C))) := by decide

/-- The last offset of the window, CMD with the wrong size and misaligned, and the first offset past the window. -/
theorem witness_MalformedAccessChangesNothing :
    (∀ a ∈ [Access.mk .read 4095 4 0, Access.mk .write 0x00C 2 1, Access.mk .write 0x00D 4 1],
      a.off < 4096 ∧ (a.size ≠ 4 ∨ a.off % 4 ≠ 0)) ∧ 4096 ≤ (Access.mk .read 4096 4 0).off := by decide

theorem witness_CommandRejectedWhileBusy : (running .gen).busy = true ∧ (running .clr).busy = true := by decide

/-- Opcode 0, the first opcode above the map, and a bit above the opcode, with and without a fault pending. -/
theorem witness_IllegalCommandRejected :
    (finished.busy = false ∧ faulted.busy = false ∧ faulted.err = true) ∧
    ∀ n ∈ [0x00000000, 0x00000006, 0x00000011], let v : Word := BitVec.ofNat 32 n
      v.extractLsb' 4 28 ≠ 0#28 ∨ ¬ (1 ≤ (v.extractLsb' 0 4).toNat ∧ (v.extractLsb' 0 4).toNat ≤ 5) := by decide

theorem witness_CommandRejectedOnPendingFault :
    (faulted.busy = false ∧ faulted.err = true) ∧ (1 ≤ (1#32).toNat ∧ (1#32).toNat ≤ 4) ∧
    1 ≤ (4#32).toNat ∧ (4#32).toNat ≤ 4 := by decide

/-- TRUNC, the first and the last of the other words, and CLR with a fault pending. -/
theorem witness_CommandAccepted :
    (finished.busy = false ∧ finished.err = false) ∧ (faulted.busy = false ∧ faulted.err = true ∧ (5#32).toNat = 5) ∧
    ∀ n ∈ [1, 3, 5], 1 ≤ (BitVec.ofNat 32 n).toNat ∧ (BitVec.ofNat 32 n).toNat ≤ 5 := by decide

/-- The smallest period, in a state other than the reset state. -/
theorem witness_QuantTotpFloors :
    ({ finished with period := 1 } : State).mode = 0 ∧ ({ finished with period := 1 } : State).period ≠ 0 := by decide

/-- A counter state that GEN ends in a code from. -/
def hotp : State := { withKey20 6 9 with mode := 1 }

theorem witness_HotpPassesFunctor :
    hotp.mode = 1 ∧ hotp.done = false ∧ ∃ t : State, exec .gen hotp = .next t ∧ t.done = true :=
  ⟨rfl, rfl, _, execGen_ok hotp .sha1 (by decide) (by decide) (by decide) rfl, rfl⟩

/-- The empty key and the longest, for each algorithm. -/
theorem witness_HmacWritesDigest :
    (Alg.ofCode 0 = some .sha1 ∧ Alg.ofCode 1 = some .sha256 ∧ Alg.ofCode 2 = some .sha512) ∧
    ∀ n ∈ [0, 256], ∀ c ∈ [0, 1, 2], let s : State := { finished with alg := BitVec.ofNat 2 c, keylen := BitVec.ofNat 16 n }
      Alg.ofCode s.alg ≠ none ∧ s.keylen.toNat ≤ 256 ∧ s.digest.wf 64 = true := by decide

/-- The shortest digest TRUNC takes (four bytes), and the longest with the largest offset. -/
theorem witness_TruncWritesCode :
    ∀ d ∈ [6#4, 10#4], ∀ p ∈ [(4#7, [(0, 1#8)]), (19#7, [(18, 0x0F#8)]), (64#7, [(63, 0xFF#8)])],
      let s : State := { finished with digits := d, dlen := p.1, digest := p.2 }
      6 ≤ s.digits.toNat ∧ s.digits.toNat ≤ 10 ∧ 1 ≤ s.dlen.toNat ∧ s.dlen.toNat ≤ 64 ∧ s.codeStr.wf 12 = true ∧
      (s.digest.read (s.dlen.toNat - 1)).toNat % 16 + 4 ≤ s.dlen.toNat := by decide

theorem witness_GenWritesCode :
    ∀ d ∈ [6#4, 10#4], ∀ p ∈ [(0, 1), (1, 0)], ∀ n ∈ [0, 256],
      let s : State := { finished with
        digits := d, mode := BitVec.ofNat 1 p.1, period := BitVec.ofNat 32 p.2, keylen := BitVec.ofNat 16 n, alg := 2 }
      6 ≤ s.digits.toNat ∧ s.digits.toNat ≤ 10 ∧ (s.mode = 1 ∨ s.period ≠ 0) ∧ s.keylen.toNat ≤ 256 ∧
      Alg.ofCode s.alg = some .sha512 ∧ s.codeStr.wf 12 = true := by decide +kernel

/-- Digits 5 and 11. -/
theorem witness_FaultPriority_digits :
    ({ finished with digits := 5 } : State).digits.toNat < 6 ∧ 10 < ({ finished with digits := 11 } : State).digits.toNat := by
  decide +kernel

/-- A period of 0 with 6 digits. -/
theorem witness_FaultPriority_period :
    let s : State := { finished with period := 0 }
    ¬ (s.digits.toNat < 6 ∨ 10 < s.digits.toNat) ∧ s.mode = 0 ∧ s.period = 0 := by decide

/-- A key of 257 bytes. -/
theorem witness_FaultPriority_key :
    let s : State := { finished with keylen := 257 }
    ¬ (s.digits.toNat < 6 ∨ 10 < s.digits.toNat) ∧ ¬ (s.mode = 0 ∧ s.period = 0) ∧ 256 < s.keylen.toNat := by
  decide +kernel

/-- The algorithm code 3 with a key of 256 bytes. -/
theorem witness_FaultPriority_alg :
    let s : State := { finished with keylen := 256, alg := 3 }
    ¬ (s.digits.toNat < 6 ∨ 10 < s.digits.toNat) ∧ ¬ (s.mode = 0 ∧ s.period = 0) ∧ ¬ 256 < s.keylen.toNat ∧ s.alg = 3 := by
  decide +kernel

/-- No digest with 10 digits. -/
theorem witness_FaultPriority_empty :
    let s : State := { finished with digits := 10 }
    ¬ (s.digits.toNat < 6 ∨ 10 < s.digits.toNat) ∧ s.dlen = 0 := by decide

/-- A digest of 3 bytes, one of 65, and one a byte too short for its offset. -/
theorem witness_FaultPriority_length :
    ∀ p ∈ [(3#7, ([] : Memory)), (65#7, []), (18#7, [(17, 0x0F#8)])],
      let s : State := { finished with dlen := p.1, digest := p.2 }
      ¬ (s.digits.toNat < 6 ∨ 10 < s.digits.toNat) ∧ s.dlen ≠ 0 ∧
      (64 < s.dlen.toNat ∨ s.dlen.toNat < (s.digest.read (s.dlen.toNat - 1)).toNat % 16 + 4) := by decide

/-- An idle state, with a fault recorded and without. -/
theorem witness_ClrErases : finished.busy = false ∧ faulted.busy = false := by decide

/-- A fault, a success of CLR and a success of QUANT. -/
theorem witness_CompletionKeepsConfiguration :
    exec .quant faulted = .next (faulted.raiseFault .periodZero) ∧ exec .quant finished = .next (quantDone finished) ∧
    Instr.quant ≠ .clr ∧ ∃ t : State, exec .clr faulted = .next t :=
  ⟨execQuant_period faulted (by decide), execQuant_ok finished (by decide), by decide, _, execClr_eq faulted⟩

theorem witness_FaultLeavesNoPartialResult :
    ∃ t : State, exec .gen (({ finished with digits := 11 } : State).accept .gen) = .next t ∧ t.done = false ∧
      Instr.gen ≠ .trunc :=
  ⟨_, execGen_digits _ (by decide), rfl, by decide⟩

/-- Each command from the state a GEN left. -/
theorem witness_OutputsPerCommand :
    ∀ i : Instr, ∃ t : State, exec i (finished.accept i) = .next t := by
  intro i
  cases i with
  | gen => exact ⟨_, execGen_ok _ .sha1 (by decide) (by decide) (by decide) rfl⟩
  | hmac => exact ⟨_, execHmac_ok _ .sha1 (by decide) rfl⟩
  | trunc => exact ⟨_, execTrunc_empty _ (by decide) (by decide)⟩
  | quant => exact ⟨_, execQuant_ok _ (by decide)⟩
  | clr => exact ⟨_, execClr_eq _⟩

/-- DLEN at its bounds: 1 and 65 fault, 4 just fits, 19 and 64 always fit. -/
theorem witness_DigestLengthExactly :
    (6 ≤ finished.digits.toNat ∧ finished.digits.toNat ≤ 10) ∧
    (∀ p ∈ [(1#7, ([] : Memory)), (65#7, []), (18#7, [(17, 0x0F#8)])],
      let s : State := { finished with dlen := p.1, digest := p.2 }
      s.dlen ≠ 0 ∧ (64 < s.dlen.toNat ∨ s.dlen.toNat < (s.digest.read (s.dlen.toNat - 1)).toNat % 16 + 4)) ∧
    (∀ p ∈ [(4#7, ([] : Memory)), (19#7, [(18, 0x0F#8)]), (64#7, [(63, 0xFF#8)])],
      let s : State := { finished with dlen := p.1, digest := p.2 }
      s.dlen ≠ 0 ∧ s.dlen.toNat ≤ 64 ∧ (s.digest.read (s.dlen.toNat - 1)).toNat % 16 + 4 ≤ s.dlen.toNat) ∧
    (19 ≤ (19#7).toNat ∧ (64#7).toNat ≤ 64) := by decide

theorem witness_DigestLengthExactly_hmac :
    hotp.done = false ∧ ∃ t : State, exec .hmac hotp = .next t ∧ t.done = true :=
  ⟨rfl, _, execHmac_ok hotp .sha1 (by decide) rfl, rfl⟩

theorem witness_GenNeverEmptyOrShortDigest : hotp.errcode = 0 ∧ ∃ t : State, exec .gen hotp = .next t :=
  ⟨rfl, _, execGen_ok hotp .sha1 (by decide) (by decide) (by decide) rfl⟩

/-- A rejected command with a fault recorded: the fault stays. -/
theorem witness_ErrcodeNamesFirstFault :
    Inv faulted ∧ ∃ t : State, eventStep faulted (.host ⟨.write, 0x00C, 4, 1⟩) = .next t ∧ faulted.err = true ∧
      t.err = true :=
  ⟨inv_faulted, _, rfl, rfl, rfl⟩

/-- A fault recorded while CLR is in progress (CLR alone is accepted then). -/
def faultedRunningClr : State := faulted.accept .clr

theorem witness_FaultLeftByAckClrReset :
    (∃ t : State, eventStep faulted (.host ⟨.write, 0x010, 4, 4⟩) = .next t ∧ faulted.err = true ∧ t.err = false) ∧
    (∃ t : State, eventStep faultedRunningClr .engine = .next t ∧ faultedRunningClr.err = true ∧ t.err = false) ∧
    (∃ t : State, eventStep faulted .reset = .next t ∧ t.err = false) :=
  ⟨⟨_, rfl, rfl, rfl⟩, ⟨_, rfl, rfl, rfl⟩, ⟨_, rfl, rfl⟩⟩

/-- A key one byte longer than the block, and zeros that just fill the block, for each algorithm. -/
theorem witness_LongKeyHashedShortKeyPadded :
    ∀ A ∈ [Alg.sha1, .sha256, .sha512],
      A.blockBytes < (List.replicate (A.blockBytes + 1) (1 : Byte)).length ∧
      (List.replicate 20 (1 : Byte)).length + (A.blockBytes - 20) ≤ A.blockBytes := by decide

/-- The first and the last filler byte of the padded empty message of SHA-1. -/
theorem witness_PaddingFillsWholeBlocks :
    ∀ i ∈ [1, 55], ([] : List Byte).length + 1 ≤ i ∧ i + Alg.sha1.lengthBytes < (padMessage .sha1 []).length := by decide

/-- The last byte of a block under a short key, a key that fills the block and one a byte longer. -/
theorem witness_HmacConstruction :
    ∀ A ∈ [Alg.sha1, .sha256, .sha512], A.blockBytes - 1 < A.blockBytes ∧
      ¬ A.blockBytes < (List.replicate A.blockBytes (1 : Byte)).length ∧
      A.blockBytes < (List.replicate (A.blockBytes + 1) (1 : Byte)).length := by decide

/-- The least and the greatest code of 10 digits, and the document's 42. -/
theorem witness_CodeStringIsDecimal :
    42 < 10 ^ 6 ∧ 0 < 10 ^ 0 ∧ (2147483647 < 10 ^ 10 ∧ 2147483647 < 2 ^ 31) ∧ 0 < 10 ^ 10 ∧ 10 ≤ 11 := by decide

theorem witness_InvKeptByEveryStep :
    Inv (running .clr) ∧ (∃ t : State, step (running .clr) = .next t) ∧
    Inv (running .gen) ∧ ∃ t : State, step (running .gen) = .next t :=
  ⟨inv_running_clr, ⟨_, rfl⟩, inv_running_gen, _,
    (step_nil (running .gen) rfl).trans ((engineStep_busy (running .gen) .gen rfl rfl).trans
      (execGen_ok (running .gen) .sha1 (by decide) (by decide) (by decide) rfl))⟩

theorem witness_GenEqualsItsStages : ∃ t : State, exec .gen (hotp.accept .gen) = .next t ∧ t.done = true :=
  ⟨_, execGen_ok _ .sha1 (by decide) (by decide) (by decide) rfl, rfl⟩

/-- Accesses the host may make while busy: a locked write, a command, an acknowledgement, a malformed and a last read. -/
def busyAccesses : List Access :=
  [⟨.write, 0x100, 4, 7⟩, ⟨.write, 0x00C, 4, 5⟩, ⟨.write, 0x010, 4, 0x1E⟩, ⟨.read, 4095, 1, 0⟩, ⟨.read, 4092, 4, 0⟩]

theorem witness_BusyHostAccessesChangeNoResult :
    Inv { running .gen with pending := busyAccesses.map Event.host } ∧ (running .gen).busy = true ∧
    ∀ a ∈ busyAccesses, a.off < 4096 :=
  ⟨⟨⟨by decide, by decide, by decide, by decide⟩,
      ⟨by decide, by decide, by decide, by decide, by decide, by decide, by decide, by decide⟩,
      ⟨by decide, by decide, codeBytes_of_cells _ (by decide)⟩, ⟨by decide, by decide⟩⟩, rfl, by decide⟩

theorem witness_AcceptedCommandCompletes :
    ∀ i ∈ [Instr.gen, .hmac, .trunc, .quant, .clr],
      ({ running i with pending := busyAccesses.map Event.host } : State).busy = true ∧
      ({ running i with pending := busyAccesses.map Event.host } : State).lastop = i.opcode ∧
      ∀ a ∈ busyAccesses, a.off < 4096 := by decide

/-- The same operands with another challenge, other flags, and bytes above KEYLEN and DLEN. -/
def otherwise (s : State) : State :=
  { s with
    chal := [(5, 9)], rej := true, rejcause := 3, doneIe := true, lastop := 2, codeInt := 1, key := s.key.write 255 0xAA
    digest := s.digest.write 63 0xBB }

theorem witness_ResultDependsOnOperandsOnly :
    let s : State := { finished with dlen := 4, digest := [(3, 1)] }
    s ≠ otherwise s ∧ s.alg = (otherwise s).alg ∧ s.factor = (otherwise s).factor ∧ s.keylen = (otherwise s).keylen ∧
    (∀ j : Nat, j < s.keylen.toNat → s.key.read j = (otherwise s).key.read j) ∧ s.mode = (otherwise s).mode ∧
    (s.mode = 0 → s.period = (otherwise s).period) ∧ s.dlen = (otherwise s).dlen ∧
    (∀ j : Nat, j < s.dlen.toNat → s.digest.read j = (otherwise s).digest.read j) ∧ s.digits = (otherwise s).digits := by
  decide

theorem witness_ChallengeChangesNoResult : Instr.gen ≠ .clr ∧ Instr.clr = .clr := by decide

/-- Acceptance of the first and the last word, CLR with a fault recorded, then a completion and a reset while busy. -/
theorem witness_BusyChangesOnlyByProtocol :
    (∃ t : State, eventStep finished (.host ⟨.write, 0x00C, 4, 1⟩) = .next t ∧ finished.busy = false ∧ t.busy = true) ∧
    (∃ t : State, eventStep faulted (.host ⟨.write, 0x00C, 4, 5⟩) = .next t ∧ faulted.busy = false ∧ t.busy = true) ∧
    (∃ t : State, eventStep (running .clr) .engine = .next t ∧ (running .clr).busy = true ∧ t.busy = false) ∧
    (∃ t : State, eventStep (running .gen) .reset = .next t ∧ (running .gen).busy = true ∧ t.busy = false) :=
  ⟨⟨_, rfl, rfl, rfl⟩, ⟨_, rfl, rfl, rfl⟩, ⟨_, rfl, rfl, rfl⟩, ⟨_, rfl, rfl, rfl⟩⟩

/-- The first and the last word of KEY, CLR, and reset. -/
theorem witness_KeyChangesOnlyByHostClrReset :
    (∃ t : State, eventStep finished (.host ⟨.write, 0x100, 4, 1⟩) = .next t ∧ t.key ≠ finished.key) ∧
    (∃ t : State, eventStep finished (.host ⟨.write, 0x1FC, 4, 1⟩) = .next t ∧ t.key ≠ finished.key) ∧
    (∃ t : State, eventStep (running .clr) .engine = .next t ∧ t.key ≠ (running .clr).key) ∧
    (∃ t : State, eventStep finished .reset = .next t ∧ t.key ≠ finished.key) :=
  ⟨⟨_, rfl, by decide⟩, ⟨_, rfl, by decide⟩, ⟨_, rfl, by decide⟩, ⟨_, rfl, by decide⟩⟩

theorem witness_ConfigurationChangesOnlyByHostReset :
    (∃ t : State, eventStep finished (.host ⟨.write, 0x004, 4, 0x800⟩) = .next t ∧
      ¬ (t.alg = finished.alg ∧ t.mode = finished.mode ∧ t.digits = finished.digits ∧ t.period = finished.period)) ∧
    (∃ t : State, eventStep finished (.host ⟨.write, 0x008, 4, 60⟩) = .next t ∧
      ¬ (t.alg = finished.alg ∧ t.mode = finished.mode ∧ t.digits = finished.digits ∧ t.period = finished.period)) ∧
    (∃ t : State, eventStep faulted .reset = .next t ∧
      ¬ (t.alg = faulted.alg ∧ t.mode = faulted.mode ∧ t.digits = faulted.digits ∧ t.period = faulted.period)) :=
  ⟨⟨_, rfl, by decide⟩, ⟨_, rfl, by decide⟩, ⟨_, rfl, by decide⟩⟩

/-- Idle, busy and faulted states of the invariant. -/
theorem witness_NoFaultUnderInvariant : Inv (running .gen) ∧ Inv finished ∧ Inv faulted :=
  ⟨inv_running_gen, inv_finished, inv_faulted⟩

end Sys2Proof.Tests
end

section
/-! SUPPORT. The invariant (10_state.md R47): what each of its parts reads, that every operation of the block keeps it, and
so that every event and every step does. -/

namespace Sys2Proof.Machine

/-! ### Each part of the invariant reads a few fields alone

A state that agrees on those fields meets the part too; an agreement that holds by computation is found by itself. -/

theorem BuffersWf.of_eq {s t : State} (h : BuffersWf s) (hstr : t.codeStr = s.codeStr := by rfl)
    (hdigest : t.digest = s.digest := by rfl) (hchal : t.chal = s.chal := by rfl) (hkey : t.key = s.key := by rfl) :
    BuffersWf t :=
  ⟨hstr ▸ h.codeStr, hdigest ▸ h.digest, hchal ▸ h.chal, hkey ▸ h.key⟩

theorem FlagsWf.of_eq {s t : State} (h : FlagsWf s) (hbusy : t.busy = s.busy := by rfl)
    (hdone : t.done = s.done := by rfl) (herr : t.err = s.err := by rfl) (hcode : t.errcode = s.errcode := by rfl)
    (hrej : t.rej = s.rej := by rfl) (hcause : t.rejcause = s.rejcause := by rfl)
    (hlast : t.lastop = s.lastop := by rfl) : FlagsWf t := by
  obtain ⟨h1, h2, h3, h4, h5, h6, h7, h8⟩ := h
  constructor <;> simpa only [hbusy, hdone, herr, hcode, hrej, hcause, hlast]

theorem ResultsWf.of_eq {s t : State} (h : ResultsWf s) (hint : t.codeInt = s.codeInt := by rfl)
    (hstr : t.codeStr = s.codeStr := by rfl) : ResultsWf t :=
  ⟨hint ▸ h.codeIntBelow, hstr ▸ h.codeStrTail, hstr ▸ h.codeStrBytes⟩

theorem BusyOutputsClear.of_eq {s t : State} (h : BusyOutputsClear s) (hbusy : t.busy = s.busy := by rfl)
    (hlast : t.lastop = s.lastop := by rfl) (hoffset : t.truncOffset = s.truncOffset := by rfl)
    (hvalue : t.truncValue = s.truncValue := by rfl) (hint : t.codeInt = s.codeInt := by rfl)
    (hstr : t.codeStr = s.codeStr := by rfl) (hbucket : t.bucket = s.bucket := by rfl)
    (hdlen : t.dlen = s.dlen := by rfl) (hdigest : t.digest = s.digest := by rfl) : BusyOutputsClear t := by
  obtain ⟨htrunc, hchain⟩ := h
  constructor <;> simpa only [hbusy, hlast, hoffset, hvalue, hint, hstr, hbucket, hdlen, hdigest]

theorem busyOutputsClear_of_idle {s : State} (hb : s.busy = false) : BusyOutputsClear s :=
  ⟨fun h => by simp [hb] at h, fun h => by simp [hb] at h⟩

/-- CODE_INT at zero and CODE_STR at zero are in range. -/
theorem resultsWf_of_cleared {s : State} (hint : s.codeInt = 0) (hstr : s.codeStr = []) : ResultsWf s where
  codeIntBelow := by rw [hint]; decide
  codeStrTail := by rw [hstr]; exact ⟨rfl, rfl⟩
  codeStrBytes i := by rw [hstr]; rfl

/-- A code of at most 10 digits written over a cleared CODE_STR leaves the results in range (R198, R199). -/
theorem resultsWf_of_code {s : State} (v : BitVec 31) {d : Nat} (hd : d ≤ 10)
    (hint : s.codeInt = BitVec.ofNat 32 (codeOf v d)) (hstr : s.codeStr = Memory.writeBytes [] 0 (fmt (codeOf v d) d)) :
    ResultsWf s where
  codeIntBelow := by
    rw [hint, BitVec.toNat_ofNat]
    exact lt_of_le_of_lt (Nat.mod_le _ _) (codeOf_lt v d)
  codeStrTail := by
    rw [hstr, read_writeCode rfl _ d hd, read_writeCode rfl _ d hd, if_neg (by omega), if_neg (by omega)]
    exact ⟨rfl, rfl⟩
  codeStrBytes i := by
    rw [hstr, read_writeCode rfl _ d hd]
    split
    · exact isCodeByte_fmtChar _ d i
    · rfl

/-! ### Reset, and what the invariant does not read -/

theorem flagsWf_reset : FlagsWf State.reset := by constructor <;> decide

theorem inv_reset (p : List Event) : Inv { State.reset with pending := p } where
  buffers := buffersWf_reset p
  flags := flagsWf_reset.of_eq
  results := resultsWf_of_cleared rfl rfl
  busyOutputs := busyOutputsClear_of_idle rfl

theorem Inv.withPending {s : State} (h : Inv s) (p : List Event) : Inv { s with pending := p } :=
  ⟨h.buffers.of_eq, h.flags.of_eq, h.results.of_eq, h.busyOutputs.of_eq⟩

theorem Inv.respond {s : State} (h : Inv s) (r : Response) : Inv (s.respond r) :=
  ⟨h.buffers.of_eq, h.flags.of_eq, h.results.of_eq, h.busyOutputs.of_eq⟩

/-! ### Host writes -/

theorem Inv.ignoreWrite {s : State} (h : Inv s) : Inv s.ignoreWrite :=
  ⟨h.buffers.of_eq, h.flags.of_eq, h.results.of_eq, h.busyOutputs.of_eq⟩

theorem Inv.ienWrite {s : State} (h : Inv s) (v : Word) : Inv (ienWrite s v) :=
  ⟨h.buffers.of_eq, h.flags.of_eq, h.results.of_eq, h.busyOutputs.of_eq⟩

theorem RejectCause.code_ne_zero (c : RejectCause) : c.code ≠ 0 := by cases c <;> decide

theorem FlagsWf.reject {s : State} (h : FlagsWf s) (c : RejectCause) : FlagsWf (s.reject c) :=
  { h with rejIffCause := by simpa using c.code_ne_zero }

theorem Inv.reject {s : State} (h : Inv s) (c : RejectCause) : Inv (s.reject c) :=
  ⟨h.buffers.of_eq, h.flags.reject c, h.results.of_eq, h.busyOutputs.of_eq⟩

/-- Acceptance with a fault recorded is of CLR alone (40_command_protocol.md R113). -/
theorem FlagsWf.accept {s : State} (h : FlagsWf s) {i : Instr} (hi : s.err = false ∨ i = .clr) : FlagsWf (s.accept i) where
  busyNotDone _ := s.accept_done i
  errIffCode := by simpa using h.errIffCode
  errcodeLegal := by simpa using h.errcodeLegal
  rejIffCause := by simpa using h.rejIffCause
  lastopLegal := by simpa using (opcode_bounds i).2
  busyLastop _ := by simpa using (opcode_bounds i).1
  busyErr _ he := by
    rw [State.accept_err] at he
    rw [State.accept_lastop, opcode_eq_five]
    exact hi.resolve_left (by simp [he])
  doneNotErr := by simp

theorem busyOutputsClear_accept (s : State) (i : Instr) : BusyOutputsClear (s.accept i) where
  truncOutputs _ := by simp
  chain _ hl := by
    rw [State.accept_lastop, Ne, opcode_eq_three] at hl
    simp [State.accept_bucket, State.accept_dlen, State.accept_digest, hl]

theorem Inv.accept {s : State} (h : Inv s) {i : Instr} (hi : s.err = false ∨ i = .clr) : Inv (s.accept i) where
  buffers := buffersWf_accept h.buffers i
  flags := h.flags.accept hi
  results := resultsWf_of_cleared (s.accept_codeInt i) (s.accept_codeStr i)
  busyOutputs := busyOutputsClear_accept s i

theorem Inv.cmdWrite {s : State} (h : Inv s) (v : Word) : Inv (cmdWrite s v) := by
  rcases cmdWrite_cases s v with ⟨-, e⟩ | ⟨-, -, e⟩ | ⟨i, -, -, -, -, e⟩ | ⟨i, -, -, hi, e⟩ <;> rw [e]
  · exact h.reject .busy
  · exact h.reject .illegalWord
  · exact h.reject .faultPending
  · exact h.accept hi

/-- An acknowledged flag takes its code with it, so the flags still agree (R26). -/
theorem FlagsWf.statusWrite {s : State} (h : FlagsWf s) (v : Word) : FlagsWf (statusWrite s v) := by
  rw [statusWrite_eq]
  constructor
  case busyNotDone => exact fun hb => by simp [h.busyNotDone hb]
  case errIffCode => cases v.getLsbD 2 <;> simp [h.errIffCode]
  case errcodeLegal => cases v.getLsbD 2 <;> simp [h.errcodeLegal]
  case rejIffCause => cases v.getLsbD 3 <;> simp [h.rejIffCause]
  case lastopLegal => exact h.lastopLegal
  case busyLastop => exact h.busyLastop
  case busyErr => exact fun hb he => h.busyErr hb (Bool.and_eq_true_iff.1 he).1
  case doneNotErr => exact fun ⟨hd, he⟩ => h.doneNotErr ⟨(Bool.and_eq_true_iff.1 hd).1, (Bool.and_eq_true_iff.1 he).1⟩

theorem Inv.statusWrite {s : State} (h : Inv s) (v : Word) : Inv (statusWrite s v) where
  buffers := by rw [statusWrite_eq]; exact h.buffers.of_eq
  flags := h.flags.statusWrite v
  results := by rw [statusWrite_eq]; exact h.results.of_eq
  busyOutputs := by rw [statusWrite_eq]; exact h.busyOutputs.of_eq

theorem storeLocked_busy (s : State) (v : Word) (r : Reg) : (storeLocked s v r).busy = s.busy := by cases r <;> rfl

theorem Inv.storeLocked {s : State} (h : Inv s) (hb : s.busy = false) (v : Word) (off : Nat) :
    Inv (storeLocked s v (regAt off)) where
  buffers := buffersWf_storeLocked h.buffers v off
  flags := by cases regAt off <;> exact h.flags.of_eq
  results := by cases regAt off <;> exact h.results.of_eq
  busyOutputs := busyOutputsClear_of_idle ((storeLocked_busy s v _).trans hb)

theorem Inv.writeReg {s : State} (h : Inv s) (v : Word) (off : Nat) : Inv (writeReg s v (regAt off)) := by
  rcases writeReg_cases s v (regAt off) with ⟨-, e⟩ | ⟨-, e⟩ | ⟨-, e⟩ | ⟨-, -, e⟩ | ⟨-, hb, e⟩ | ⟨-, -, -, -, e⟩ <;> rw [e]
  · exact h.cmdWrite v
  · exact h.statusWrite v
  · exact h.ienWrite v
  · exact h.ignoreWrite
  · exact h.storeLocked hb v off
  · exact h

theorem Inv.hostAccess {s t : State} {a : Access} (h : Inv s) (ht : hostAccess s a = .next t) : Inv t := by
  rcases hostAccess_next ht with ⟨r, rfl⟩ | ⟨off, v, -, rfl⟩
  · exact h.respond r
  · exact (h.writeReg v off).respond .okWrite

/-! ### Completion of the command in progress -/

/-- A completion always goes on: a command's fault is a next state too (60_exceptions.md R262). -/
theorem exec_eq_next (i : Instr) (s : State) : ∃ t : State, exec i s = .next t := by cases i <;> exact ⟨_, rfl⟩

theorem exec_busy {s t : State} {i : Instr} (he : exec i s = .next t) : t.busy = false := by
  rcases exec_cases i s with ⟨-, f, hx⟩ | ⟨-, -, -, -, A, -, hx⟩ | ⟨-, -, A, -, hx⟩ | ⟨-, -, -, -, -, hx⟩ | ⟨-, -, hx⟩ |
    ⟨-, hx⟩
  all_goals rw [hx] at he; cases he; rfl

theorem FlagsWf.raiseFault {s : State} (h : FlagsWf s) (hd : s.done = false) (f : FaultCode) : FlagsWf (s.raiseFault f) :=
  { h with
    busyNotDone := by simp
    errIffCode := by simp only [State.raiseFault_err, State.raiseFault_errcode]; cases f <;> decide
    errcodeLegal := f.code_bounds.2
    busyLastop := by simp
    busyErr := by simp
    doneNotErr := by simp [hd] }

theorem FlagsWf.finishOk {s : State} (h : FlagsWf s) (he : s.err = false) : FlagsWf s.finishOk :=
  { h with busyNotDone := by simp, busyLastop := by simp, busyErr := by simp, doneNotErr := by simp [he] }

theorem FlagsWf.ackErr {s : State} (h : FlagsWf s) : FlagsWf s.ackErr :=
  { h with errIffCode := by simp, errcodeLegal := by simp, busyErr := by simp, doneNotErr := by simp }

/-- A command in progress other than CLR has no fault recorded, so its success leaves DONE without ERR (R47 (b), (i)). -/
theorem FlagsWf.exec {s t : State} {i : Instr} (h : FlagsWf s) (hb : s.busy = true) (hl : s.lastop = i.opcode)
    (he : exec i s = .next t) : FlagsWf t := by
  have noErr (hi : i ≠ .clr) : s.err = false := by
    by_contra herr
    exact hi ((opcode_eq_five i).1 (hl ▸ h.busyErr hb (by simpa using herr)))
  rcases exec_cases i s with ⟨-, f, hx⟩ | ⟨rfl, -, -, -, A, -, hx⟩ | ⟨rfl, -, A, -, hx⟩ | ⟨rfl, -, -, -, -, hx⟩ |
    ⟨rfl, -, hx⟩ | ⟨-, hx⟩
  all_goals rw [hx] at he; cases he
  case inl => exact h.raiseFault (h.busyNotDone hb) f
  case inr.inr.inr.inr.inr => exact (h.ackErr.finishOk rfl).of_eq
  all_goals exact (h.finishOk (noErr (by decide))).of_eq

/-- GEN and TRUNC write a code over the CODE_STR that acceptance cleared; no other success leaves one (R115). -/
theorem ResultsWf.exec {s t : State} {i : Instr} (h : ResultsWf s) (hstr : s.codeStr = []) (he : exec i s = .next t) :
    ResultsWf t := by
  rcases exec_cases i s with ⟨-, f, hx⟩ | ⟨-, hd, -, -, A, -, hx⟩ | ⟨-, -, A, -, hx⟩ | ⟨-, hd, -, -, -, hx⟩ | ⟨-, -, hx⟩ |
    ⟨-, hx⟩
  all_goals rw [hx] at he; cases he
  · exact h.of_eq
  · exact resultsWf_of_code _ ((digitsIllegal_eq_false s).1 hd).2 rfl (by rw [genDone, hstr]; rfl)
  · exact h.of_eq
  · exact resultsWf_of_code _ ((digitsIllegal_eq_false s).1 hd).2 rfl (by rw [truncDone, hstr]; rfl)
  · exact h.of_eq
  · exact resultsWf_of_cleared rfl rfl

theorem Inv.exec {s t : State} {i : Instr} (h : Inv s) (hb : s.busy = true) (hl : s.lastop = i.opcode)
    (he : exec i s = .next t) : Inv t where
  buffers := buffersWf_exec h.buffers he
  flags := h.flags.exec hb hl he
  results := by
    obtain ⟨-, -, -, hstr⟩ := h.busyOutputs.truncOutputs hb
    exact h.results.exec hstr he
  busyOutputs := busyOutputsClear_of_idle (exec_busy he)

theorem Inv.engineStep {s t : State} (h : Inv s) (ht : engineStep s = .next t) : Inv t := by
  rcases engineStep_next ht with rfl | ⟨i, hb, hl, he⟩
  · exact h
  · exact h.exec hb hl he

/-! ### Every event and every step -/

theorem Inv.eventStep {s t : State} {e : Event} (h : Inv s) (ht : eventStep s e = .next t) : Inv t := by
  cases e with
  | host a => exact h.hostAccess ht
  | engine => exact h.engineStep ht
  | reset =>
    cases ht
    exact inv_reset s.pending

/-- A step is an event: the first pending one, or the engine's turn (log entry 1). -/
theorem step_eq_eventStep (s : State) :
    ∃ (p : List Event) (e : Event), step s = Machine.eventStep { s with pending := p } e := by
  cases hp : s.pending with
  | nil => exact ⟨s.pending, .engine, step_nil s hp⟩
  | cons e rest => exact ⟨rest, e, by rw [step, nextStep, hp]⟩

/-- A command in progress is one of the five, so the engine's turn completes it (R47 (d)). -/
theorem FlagsWf.decodeOpcode_lastop {s : State} (h : FlagsWf s) (hb : s.busy = true) : decodeOpcode s.lastop ≠ none := by
  rw [Ne, decodeOpcode_eq_none]
  rintro (h0 | h6)
  · have hpos := h.busyLastop hb
    simp [h0] at hpos
  · have := h.lastopLegal
    omega

/-- The engine's turn is the one event that can fault, and the invariant keeps it from that. -/
theorem Inv.eventStep_ne_fault {s : State} (h : Inv s) (e : Event) (f : Fault) : Machine.eventStep s e ≠ .fault f := by
  cases e with
  | host a =>
    intro hf
    rcases hostAccess_cases s a with ⟨-, e⟩ | ⟨-, -, e⟩ | ⟨-, -, -, -, e⟩ | ⟨-, -, -, -, e⟩ <;>
      cases e.symm.trans hf
  | engine =>
    intro hf
    rcases engineStep_cases s with ⟨-, e⟩ | ⟨i, -, -, e⟩ | ⟨hb, hn, -⟩
    · cases e.symm.trans hf
    · obtain ⟨u, hu⟩ := exec_eq_next i s
      cases (e.trans hu).symm.trans hf
    · exact h.flags.decodeOpcode_lastop hb hn
  | reset => nofun

/-- Settles O45: a step is an event on the block, and each kind of event keeps each part of the invariant. -/
theorem invKeptByEveryStep : Obligations.InvKeptByEveryStep := by
  intro s t h ht
  obtain ⟨p, e, hstep⟩ := step_eq_eventStep s
  exact (h.withPending p).eventStep (hstep ▸ ht)

/-- Settles O54: a step is an event on the block, and under the invariant no event faults. -/
theorem noFaultUnderInvariant : Obligations.NoFaultUnderInvariant := by
  intro s h f
  obtain ⟨p, e, hstep⟩ := step_eq_eventStep s
  exact hstep ▸ (h.withPending p).eventStep_ne_fault e f

/-- Settles O44: the reset state is the state after reset with nothing pending. -/
theorem invHoldsAtReset : Obligations.InvHoldsAtReset := inv_reset []

end Sys2Proof.Machine
end

section
/-! SUPPORT. The registers the host reads and writes (10_state.md R21 to R38, R45): the fields of the assembled words, the
writes of STATUS and IEN, and what changes KEY. -/

namespace Sys2Proof.Machine

/-! ### The words the host reads, field by field -/

/-- Settles O10: STATUS is its fields side by side, so each field is reached by dropping those below it. -/
theorem statusReadLayout : Obligations.StatusReadLayout := by
  intro s
  have hread : readReg s (regAt 0x010) = s.statusWord := rfl
  simp only [hread, State.statusWord]
  refine ⟨?busy, ?done, ?err, ?rej, ?wrign, ?low, ?errcode, ?lastop, ?rejcause, ?high⟩
  case busy | done | err | rej | wrign =>
    repeat rw [BitVec.append_ofBool, BitVec.getLsbD_concat_succ]
    rw [BitVec.append_ofBool, BitVec.getLsbD_concat_zero]
  case low | errcode | lastop | rejcause =>
    repeat rw [BitVec.extractLsb'_append_eq_of_le (by decide)]
    exact BitVec.extractLsb'_append_eq_right
  case high =>
    repeat rw [BitVec.extractLsb'_append_eq_of_le (by decide)]
    exact BitVec.extractLsb'_eq_self

/-- Settles O11: CFG is its fields side by side; the narrow registers are widened with zeros; the others are read whole. -/
theorem scalarReadLayout : Obligations.ScalarReadLayout := by
  intro s
  have hcfg : readReg s (regAt 0x004) = s.cfgWord := rfl
  simp only [hcfg, State.cfgWord]
  refine ⟨rfl, ?alg, ?low, ?mode, ?middle, ?digits, ?high, rfl, rfl, ?keylen, ?challen, ?dlen, ?offset, ?value, rfl⟩
  case alg | low | mode | middle | digits =>
    repeat rw [BitVec.extractLsb'_append_eq_of_le (by decide)]
    exact BitVec.extractLsb'_append_eq_right
  case high =>
    repeat rw [BitVec.extractLsb'_append_eq_of_le (by decide)]
    exact BitVec.extractLsb'_eq_self
  case keylen | challen | dlen | offset | value => exact BitVec.toNat_setWidth_of_le (by decide)

/-- Settles O8: the reset state lists every value, and an empty buffer reads 0x00 at each index. -/
theorem resetRegisterValues : Obligations.ResetRegisterValues :=
  ⟨rfl, rfl, rfl, rfl, rfl, rfl, rfl, rfl, rfl, rfl, rfl, rfl, rfl, rfl, rfl, fun _ => ⟨rfl, rfl, rfl, rfl⟩⟩

/-! ### The registers a write reaches while busy too -/

/-- Settles O18: the write reaches `statusWrite`, whose fields `statusWrite_eq` gives. -/
theorem statusWriteClearsNamedFlags : Obligations.StatusWriteClearsNamedFlags := by
  intro s v
  have hwrite : writeReg s v (regAt 0x010) = statusWrite s v := rfl
  rw [hostAccess_write s 0x010 v (by decide) (by decide), hwrite, statusWrite_eq]
  rfl

theorem irq_iff (s : State) : s.irq = true ↔ (s.done = true ∧ s.doneIe = true) ∨ (s.err = true ∧ s.errIe = true) := by
  simp [State.irq]

/-- Settles O19: the write reaches `ienWrite` busy or idle, and the read gives its two bits below zeros. -/
theorem interruptEnableAndLine : Obligations.InterruptEnableAndLine := by
  refine ⟨fun s v => hostAccess_write s 0x014 v (by decide) (by decide), fun s => ?_, rfl, rfl⟩
  have hread : readReg s (regAt 0x014) = s.ienWord := rfl
  simp only [hread, State.ienWord]
  refine ⟨?doneIe, ?errIe, ?high, irq_iff s⟩
  case doneIe | errIe =>
    repeat rw [BitVec.append_ofBool, BitVec.getLsbD_concat_succ]
    rw [BitVec.append_ofBool, BitVec.getLsbD_concat_zero]
  case high =>
    repeat rw [BitVec.extractLsb'_append_eq_of_le (by decide)]
    exact BitVec.extractLsb'_eq_self

/-! ### What changes KEY -/

theorem cmdWrite_key (s : State) (v : Word) : (cmdWrite s v).key = s.key := by
  rcases cmdWrite_cases s v with ⟨-, e⟩ | ⟨-, -, e⟩ | ⟨i, -, -, -, -, e⟩ | ⟨i, -, -, -, e⟩ <;> rw [e]
  case inr.inr.inr => exact s.accept_key i
  all_goals rfl

theorem storeLocked_key (s : State) (v : Word) (r : Reg) :
    (storeLocked s v r).key = s.key ∨ ∃ w : Nat, r = .key w := by
  cases r
  case key w => exact .inr ⟨w, rfl⟩
  all_goals exact .inl rfl

/-- A register write leaves KEY alone unless it is an idle write of one of its words (R30). -/
theorem writeReg_key (s : State) (v : Word) (r : Reg) :
    (writeReg s v r).key = s.key ∨ (∃ w : Nat, r = .key w) ∧ s.busy = false := by
  rcases writeReg_cases s v r with ⟨-, e⟩ | ⟨-, e⟩ | ⟨-, e⟩ | ⟨-, -, e⟩ | ⟨-, hb, e⟩ | ⟨-, -, -, -, e⟩ <;> rw [e]
  · exact .inl (cmdWrite_key s v)
  · exact .inl (by rw [statusWrite_eq])
  · exact .inl rfl
  · exact .inl rfl
  · exact (storeLocked_key s v r).imp_right fun hw => ⟨hw, hb⟩
  · exact .inl rfl

/-- No command but CLR touches KEY (40_command_protocol.md R118, R120). -/
theorem exec_key {s t : State} {i : Instr} (hi : i ≠ .clr) (he : exec i s = .next t) : t.key = s.key := by
  rcases exec_cases i s with ⟨-, f, hx⟩ | ⟨-, -, -, -, A, -, hx⟩ | ⟨-, -, A, -, hx⟩ | ⟨-, -, -, -, -, hx⟩ | ⟨-, -, hx⟩ |
    ⟨hclr, -⟩
  case inr.inr.inr.inr.inr => exact absurd hclr hi
  all_goals rw [hx] at he; cases he; rfl

theorem bounds_of_regAt_key {off w : Nat} (h : regAt off = .key w) : 0x100 ≤ off ∧ off < 0x200 := by
  have hat := isAt_regAt off
  rw [h] at hat
  obtain ⟨hw, hlo, hhi⟩ := hat
  omega

/-- Settles O52, by the kind of event: an access, the engine's turn, reset. -/
theorem keyChangesOnlyByHostClrReset : Obligations.KeyChangesOnlyByHostClrReset := by
  intro s t e ht hkey
  cases e with
  | host a =>
    rcases hostAccess_next ht with ⟨r, rfl⟩ | ⟨off, v, rfl, rfl⟩
    · exact absurd rfl hkey
    · obtain ⟨⟨w, hr⟩, hb⟩ := (writeReg_key s v (regAt off)).resolve_left hkey
      obtain ⟨hlo, hhi⟩ := bounds_of_regAt_key hr
      exact .inl ⟨off, v, rfl, hlo, hhi, hb⟩
  | engine =>
    rcases engineStep_next ht with rfl | ⟨i, hb, hl, he⟩
    · exact absurd rfl hkey
    · have hclr : i = .clr := by
        by_contra hi
        exact hkey (exec_key hi he)
      exact .inr (.inl ⟨rfl, hb, hl.trans ((opcode_eq_five i).2 hclr)⟩)
  | reset => exact .inr (.inr rfl)

end Sys2Proof.Machine
end

section
/-! SUPPORT. The register window as memory (20_memory.md): what a read and a write answer, the words of the buffers and the
halves of the 64-bit registers, and the offsets, bits and accesses that have no effect. -/

namespace Sys2Proof.Machine

/-! ### The halves of a 64-bit register (R65) -/

theorem toNat_lowHalf (x : DWord) : (x.extractLsb' 0 32).toNat = x.toNat % 2 ^ 32 := BitVec.extractLsb'_toNat 0 32 x

theorem toNat_highHalf (x : DWord) : (x.extractLsb' 32 32).toNat = x.toNat / 2 ^ 32 := by
  rw [BitVec.extractLsb'_toNat, Nat.shiftRight_eq_div_pow]
  exact Nat.mod_eq_of_lt (Nat.div_lt_of_lt_mul x.isLt)

theorem toNat_appendHalves (hi lo : Word) : (hi ++ lo).toNat = hi.toNat * 2 ^ 32 + lo.toNat := by
  rw [BitVec.toNat_append, ← Nat.shiftLeft_add_eq_or_of_lt lo.isLt, Nat.shiftLeft_eq]

theorem toNat_eq_halves (x : DWord) :
    x.toNat = (x.extractLsb' 32 32).toNat * 2 ^ 32 + (x.extractLsb' 0 32).toNat := by
  rw [toNat_highHalf, toNat_lowHalf, Nat.div_add_mod']

/-- Settles O12: the registers of a pair read as the high and the low half. -/
theorem pairRegistersReadLowFirst : Obligations.PairRegistersReadLowFirst :=
  fun s => ⟨toNat_eq_halves s.factor, toNat_eq_halves s.bucket⟩

/-! ### Idle writes of locked registers (R63) -/

theorem writeReg_locked_idle {s : State} (hb : s.busy = false) (v : Word) {r : Reg} (hl : r.locked = true) :
    writeReg s v r = storeLocked s v r := by
  rcases writeReg_cases s v r with ⟨rfl, -⟩ | ⟨rfl, -⟩ | ⟨rfl, -⟩ | ⟨-, hbusy, -⟩ | ⟨-, -, e⟩ | ⟨hfree, -⟩
  · cases hl
  · cases hl
  · cases hl
  · cases hb.symm.trans hbusy
  · exact e
  · cases hl.symm.trans hfree

theorem hostAccess_write_locked {s : State} (hb : s.busy = false) {off : Nat} (hw : off < 4096) (hm : off % 4 = 0)
    {r : Reg} (hr : regAt off = r) (hl : r.locked = true) (v : Word) :
    hostAccess s ⟨.write, off, 4, v⟩ = .next ((storeLocked s v r).respond .okWrite) := by
  rw [hostAccess_write s off v hw hm, hr, writeReg_locked_idle hb v hl]

/-- Settles O14: each register's write is `storeLocked`, and a half written leaves the other half. -/
theorem idleWriteStoresFields : Obligations.IdleWriteStoresFields := by
  intro s v hb
  refine ⟨?cfg, ?period, ⟨s.factor.extractLsb' 32 32 ++ v, ?factorLo, ?low⟩,
    ⟨v ++ s.factor.extractLsb' 0 32, ?factorHi, ?high⟩, ?keylen, ?challen, ?dlen⟩
  case low => rw [toNat_appendHalves, toNat_highHalf]
  case high => rw [toNat_appendHalves, toNat_lowHalf]
  all_goals exact hostAccess_write_locked hb (by decide) (by decide) rfl rfl v

/-! ### Words of a buffer (R64) -/

/-- A word's write stores its bytes, the most significant at the lowest index, and leaves every other byte. -/
theorem Memory.writeWord_stores {size : Nat} {m : Memory} (h : m.wf size = true) {w : Nat} (hw : 4 * w + 4 ≤ size)
    (v : Word) :
    (∀ j : Nat, j < 4 → (m.writeWord w v).read (4 * w + j) = v.extractLsb' (24 - 8 * j) 8) ∧
    ∀ a : Nat, a < 4 * w ∨ 4 * w + 4 ≤ a → (m.writeWord w v).read a = m.read a := by
  refine ⟨fun j hj => ?inside, fun a ha => ?outside⟩
  case inside =>
    rw [Memory.read_writeWord h w hw, if_pos (by omega), Nat.add_sub_cancel_left, ← getD_ser_word v j hj, getD_ser 4 _ _ hj]
  case outside => rw [Memory.read_writeWord h w hw, if_neg (by omega)]

/-- Settles O13: the map puts word `w` of each buffer at its offset; it reads as its four bytes, and an idle write stores
them and no others. -/
theorem bufferWordsBigEndian : Obligations.BufferWordsBigEndian := by
  refine ⟨fun s w => ⟨fun hw => ?_, fun hw => ?_, fun hw => ?_, fun hw => ?_⟩, fun s w v h hb => ⟨fun hw =>
    ⟨s.digest.writeWord w v, ?digest, ?_⟩, fun hw => ⟨s.chal.writeWord w v, ?chal, ?_⟩, fun hw =>
    ⟨s.key.writeWord w v, ?key, ?_⟩⟩⟩
  · exact (congrArg (readReg s) (regAt_codeStr w hw)).trans (s.codeStr.readWord_eq w)
  · exact (congrArg (readReg s) (regAt_digest w hw)).trans (s.digest.readWord_eq w)
  · exact (congrArg (readReg s) (regAt_chal w hw)).trans (s.chal.readWord_eq w)
  · exact (congrArg (readReg s) (regAt_key w hw)).trans (s.key.readWord_eq w)
  case digest => exact hostAccess_write_locked hb (by omega) (by omega) (regAt_digest w hw) rfl v
  case chal => exact hostAccess_write_locked hb (by omega) (by omega) (regAt_chal w hw) rfl v
  case key => exact hostAccess_write_locked hb (by omega) (by omega) (regAt_key w hw) rfl v
  · exact Memory.writeWord_stores h.digest (show _ ≤ 64 by omega) v
  · exact Memory.writeWord_stores h.chal (show _ ≤ 64 by omega) v
  · exact Memory.writeWord_stores h.key (show _ ≤ 256 by omega) v

/-! ### Reserved offsets and bits, read-only registers (R67) -/

theorem hostAccess_read_reserved (s : State) {off : Nat} (hw : off < 4096) (hm : off % 4 = 0)
    (hr : regAt off = .reserved) (v : Word) :
    hostAccess s ⟨.read, off, 4, v⟩ = .next { s with resp := some (.okRead 0) } := by
  rw [hostAccess_read s off v hw hm, hr]
  rfl

/-- A register that is not locked and is none of CMD, STATUS and IEN has no writable field (R63). -/
theorem writeReg_ignored (s : State) (v : Word) {r : Reg} (hl : r.locked = false) (hcmd : r ≠ .cmd)
    (hstatus : r ≠ .status) (hien : r ≠ .ien) : writeReg s v r = s := by
  rcases writeReg_cases s v r with ⟨h, -⟩ | ⟨h, -⟩ | ⟨h, -⟩ | ⟨h, -⟩ | ⟨h, -⟩ | ⟨-, -, -, -, e⟩
  · exact absurd h hcmd
  · exact absurd h hstatus
  · exact absurd h hien
  · cases hl.symm.trans h
  · cases hl.symm.trans h
  · exact e

theorem hostAccess_write_ignored (s : State) {off : Nat} (hw : off < 4096) (hm : off % 4 = 0) {r : Reg}
    (hr : regAt off = r) (hl : r.locked = false) (hcmd : r ≠ .cmd) (hstatus : r ≠ .status) (hien : r ≠ .ien) (v : Word) :
    hostAccess s ⟨.write, off, 4, v⟩ = .next { s with resp := some .okWrite } := by
  rw [hostAccess_write s off v hw hm, hr, writeReg_ignored s v hl hcmd hstatus hien]
  rfl

/-- A field widened with zeros has nothing in common with a mask above it. -/
theorem setWidth_and_maskAbove {n k : Nat} (x : BitVec n) (m : BitVec k) :
    x.setWidth (k + n) &&& (m ++ 0#n) = 0#(k + n) := by
  apply BitVec.eq_of_getLsbD_eq
  intro i _
  rw [BitVec.getLsbD_and, BitVec.getLsbD_append, BitVec.getLsbD_setWidth]
  by_cases hi : i < n
  · simp [hi]
  · simp [BitVec.getLsbD_of_ge x i (by omega)]

/-- Fields side by side have nothing in common with masks side by side when no field has with its own mask. -/
theorem append_and_append_eq_zero {n k : Nat} {x m : BitVec n} {y l : BitVec k} (hx : x &&& m = 0#n)
    (hy : y &&& l = 0#k) : (x ++ y) &&& (m ++ l) = 0#(n + k) := by
  rw [BitVec.and_append, hx, hy, BitVec.zero_append_zero]

theorem cfgWord_reserved (s : State) : s.cfgWord &&& 0xFFFFF0EC = 0 := by
  have hmask : (0xFFFFF0EC : Word) = 0xFFFFF#20 ++ 0#4 ++ 7#3 ++ 0#1 ++ 3#2 ++ 0#2 := rfl
  rw [hmask, State.cfgWord]
  repeat' apply append_and_append_eq_zero
  all_goals simp only [BitVec.zero_and, BitVec.and_zero]

theorem statusWord_reserved (s : State) : s.statusWord &&& 0xFFFC00E0 = 0 := by
  have hmask : (0xFFFC00E0 : Word) = 0x3FFF#14 ++ 0#2 ++ 0#4 ++ 0#4 ++ 7#3 ++ 0#1 ++ 0#1 ++ 0#1 ++ 0#1 ++ 0#1 := rfl
  rw [hmask, State.statusWord]
  repeat' apply append_and_append_eq_zero
  all_goals simp only [BitVec.zero_and, BitVec.and_zero]

theorem ienWord_reserved (s : State) : s.ienWord &&& 0xFFFFFFFC = 0 := by
  have hmask : (0xFFFFFFFC : Word) = 0x3FFFFFFF#30 ++ 0#1 ++ 0#1 := rfl
  rw [hmask, State.ienWord]
  repeat' apply append_and_append_eq_zero
  all_goals simp only [BitVec.zero_and, BitVec.and_zero]

/-- Settles O16: the reserved and the read-only offsets name registers that no write reaches, and each mask covers bits
where the word read has zeros. -/
theorem reservedReadZeroWriteIgnored : Obligations.ReservedReadZeroWriteIgnored := by
  refine ⟨fun s off v hm => ⟨fun hres => ?reserved, fun hro => ?readOnly⟩, fun s => ?bits⟩
  case reserved =>
    have hw : off < 4096 := by omega
    have hr : regAt off = .reserved := regAt_reserved off (by omega)
    exact ⟨hostAccess_read_reserved s hw hm hr v, hostAccess_write_ignored s hw hm hr rfl nofun nofun nofun v⟩
  case readOnly =>
    have hoff : off = 0x000 ∨ off = 0x028 ∨ off = 0x02C ∨ off = 0x034 ∨ off = 0x038 ∨ off = 0x03C ∨ off = 0x040 ∨
        off = 0x044 ∨ off = 0x048 := by omega
    rcases hoff with rfl | rfl | rfl | rfl | rfl | rfl | rfl | rfl | rfl <;>
      exact hostAccess_write_ignored s (by decide) hm rfl rfl (by decide) (by decide) (by decide) v
  case bits =>
    exact ⟨cfgWord_reserved s, statusWord_reserved s, ienWord_reserved s,
      setWidth_and_maskAbove s.keylen 0xFFFF#16, setWidth_and_maskAbove s.challen 0xFFFF#16,
      setWidth_and_maskAbove s.dlen 0x1FFFFFF#25, setWidth_and_maskAbove s.truncOffset 0xFFFFFFF#28,
      setWidth_and_maskAbove s.truncValue 1#1⟩

/-! ### The order of steps, reads, malformed accesses (R73, R62, R68) -/

theorem step_cons (s : State) (e : Event) (rest : List Event) (h : s.pending = e :: rest) :
    step s = eventStep { s with pending := rest } e := by
  rw [step, nextStep, h]

/-- Settles O5: a pending access is an event like any other, and an idle engine has nothing to complete. -/
theorem stepTakesPendingEvent : Obligations.StepTakesPendingEvent :=
  fun s e a rest => ⟨step_cons s e rest, step_nil s, step_host s a rest, engineStep_idle s⟩

/-- Settles O9: a read's one effect is the answer. -/
theorem readChangesNothing : Obligations.ReadChangesNothing := hostAccess_read

/-- Settles O17: of all that an access can do, its offset and size leave the answer `error` or the refusal. -/
theorem malformedAccessChangesNothing : Obligations.MalformedAccessChangesNothing := by
  intro s a
  rcases hostAccess_cases s a with ⟨hout, e⟩ | ⟨hin, -, e⟩ | ⟨hin, hsize, halign, -, -⟩ | ⟨hin, hsize, halign, -, -⟩
  · exact ⟨fun hin => by omega, fun _ => e⟩
  · exact ⟨fun _ _ => e, fun hout => by omega⟩
  · exact ⟨fun _ hbad => by omega, fun hout => by omega⟩
  · exact ⟨fun _ hbad => by omega, fun hout => by omega⟩

end Sys2Proof.Machine
end

section
/-! SUPPORT. Command words (30_encoding.md section 1): each command has exactly one word and the table form reads that
word's number; the words decoded are the well-formed ones. -/

namespace Sys2Proof

/-! ### One word for each command (R90, R91, R93) -/

theorem decodeWord_encode (i : Instr) : decodeWord (encode i) = .ok i := by
  cases i with
  | gen => exact Laws.DecodeEncode.gen.left
  | hmac => exact Laws.DecodeEncode.hmac.left
  | trunc => exact Laws.DecodeEncode.trunc.left
  | quant => exact Laws.DecodeEncode.quant.left
  | clr => exact Laws.DecodeEncode.clr.left

theorem decodeWord_eq_ok_iff (v : Word) (i : Instr) : decodeWord v = .ok i ↔ v = encode i :=
  ⟨eq_encode_of_decodeWord v i, fun h => h ▸ decodeWord_encode i⟩

theorem toOption_decodeWord_eq_some (v : Word) (i : Instr) : (decodeWord v).toOption = some i ↔ v = encode i := by
  rw [← decodeWord_eq_ok_iff]
  cases decodeWord v <;> simp [Except.toOption]

/-- In the table form a number of 32 bits is the number of one word, so a command has one number too (log entry 8). -/
theorem decodeTableWord_eq_some_iff (n : Nat) (i : Instr) : decodeTableWord 32 n = some i ↔ n = (encode i).toNat := by
  rw [decodeTableWord]
  split
  · next hn =>
    obtain ⟨-, hlt⟩ := hn
    rw [toOption_decodeWord_eq_some, ← BitVec.toNat_inj, BitVec.toNat_ofNat, Nat.mod_eq_of_lt hlt]
  · next hn =>
    have hne : n ≠ (encode i).toNat := fun h => hn ⟨le_rfl, h ▸ (encode i).isLt⟩
    exact iff_of_false nofun hne

/-- Settles O2: of words and of numbers of the table form alike, a command's one is the encoded word. -/
theorem decodeEncodeAgree : Obligations.DecodeEncodeAgree :=
  ⟨fun i _ => decodeWord_encode i, eq_encode_of_decodeWord, fun n i => (decodeTableWord_eq_some_iff n i).1⟩

/-! ### The words refused (R92) -/

theorem wellFormedWord_eq_true_iff (v : Word) :
    wellFormedWord v = true ↔ zeroField v = 0 ∧ 1 ≤ (opcodeField v).toNat ∧ (opcodeField v).toNat ≤ 5 := by
  simp [wellFormedWord, zeroField, opcodeField, and_assoc]

theorem wellFormedWord_eq_false_iff (v : Word) :
    wellFormedWord v = false ↔ zeroField v ≠ 0 ∨ opcodeField v = 0 ∨ 6 ≤ (opcodeField v).toNat := by
  have hzero : opcodeField v = 0 ↔ (opcodeField v).toNat = 0 := BitVec.toNat_eq
  rw [← Bool.not_eq_true, wellFormedWord_eq_true_iff, not_and_or, hzero]
  exact or_congr_right (by omega)

/-- Settles O3: the decoder and well-formedness refuse under one condition on the two fields. -/
theorem illegalWordsRefused : Obligations.IllegalWordsRefused :=
  fun v => ⟨decodeWord_error_iff v, (decodeWord_error_iff v).trans (wellFormedWord_eq_false_iff v).symm⟩

/-- In the table form the numbers beside the opcode map, below it and above it, are no command (R92). -/
theorem decodeTableWord_eq_none {n : Nat} (h : n = 0 ∨ 6 ≤ n) : decodeTableWord 32 n = none := by
  rw [Option.eq_none_iff_forall_ne_some]
  intro i hi
  rw [decodeTableWord_eq_some_iff, toNat_encode] at hi
  obtain ⟨hlo, hhi⟩ := opcode_bounds i
  omega

/-- Settles O1: the five numbers are those of the encoded words, and the other four lie beside the opcode map. -/
theorem commandWordsDecode : Obligations.CommandWordsDecode := by
  refine ⟨?gen, ?hmac, ?trunc, ?quant, ?clr, ?zero, ?six, ?bit4, ?bit31⟩
  case gen | hmac | trunc | quant | clr => exact (decodeTableWord_eq_some_iff _ _).2 rfl
  case zero | six | bit4 | bit31 => exact decodeTableWord_eq_none (by decide)

end Sys2Proof
end

section
/-! SUPPORT. The command protocol (40_command_protocol.md section 1): what a write of CMD decides, what a completion leaves and
what it depends on, and when BUSY changes. -/

namespace Sys2Proof.Machine

/-! ### The command in progress (R114, R116) -/

/-- Settles O4: the engine's turn on a busy block is the completion, whether it is the pending event or nothing is pending. -/
theorem stepRunsCommandInProgress : Obligations.StepRunsCommandInProgress := by
  intro s i rest hb hl
  refine ⟨fun hp => ?_, fun hp => ?_⟩
  · rw [step_nil s hp, engineStep_busy s i hb hl]
  · rw [step_engine s rest hp, engineStep_busy { s with pending := rest } i hb hl]

/-- Placing a command is an acceptance, in the state with a recorded fault acknowledged where that is needed (log entry 3). -/
theorem acceptNow_eq_accept (s : State) (i : Instr) : ∃ u : State, acceptNow s i = { u.accept i with pending := [] } := by
  by_cases hi : i = .clr
  · exact ⟨s, if_pos hi⟩
  · exact ⟨s.ackErr, if_neg hi⟩

theorem withFetchWord_encode (s : State) (i : Instr) : s.withFetchWord 32 (encode i).toNat = acceptNow s i := by
  rw [State.withFetchWord, (decodeTableWord_eq_some_iff _ i).2 rfl]

/-- Settles O6: the placed state is an accepted one with nothing pending, so the engine's turn comes next. -/
theorem placedCommandRunsNext : Obligations.PlacedCommandRunsNext := by
  intro s i
  obtain ⟨u, hu⟩ := acceptNow_eq_accept s i
  have hlast : decodeOpcode (u.accept i).lastop = some i := by rw [State.accept_lastop, decodeOpcode_opcode]
  rw [withFetchWord_encode, hu]
  refine ⟨?_, u.accept_busy i, u.accept_done i, u.accept_lastop i, u.accept_codeStr i⟩
  rw [step_nil _ rfl]
  exact engineStep_busy _ i (u.accept_busy i) hlast

/-! ### A write of CMD, in the order of its checks (R111 to R115) -/

theorem hostAccess_cmd (s : State) (v : Word) :
    hostAccess s ⟨.write, 0x00C, 4, v⟩ = .next ((cmdWrite s v).respond .okWrite) :=
  hostAccess_write s 0x00C v (by decide) (by decide)

theorem cmdWrite_busy {s : State} (hb : s.busy = true) (v : Word) : cmdWrite s v = s.reject .busy := by
  simp [cmdWrite, hb]

theorem cmdWrite_illegal {s : State} (hb : s.busy = false) {v : Word} {e : DecodeError} (hv : decodeWord v = .error e) :
    cmdWrite s v = s.reject .illegalWord := by
  simp [cmdWrite, hb, hv]

theorem cmdWrite_faultPending {s : State} (hb : s.busy = false) (herr : s.err = true) {i : Instr} (hi : i ≠ .clr) :
    cmdWrite s (encode i) = s.reject .faultPending := by
  simp [cmdWrite, hb, decodeWord_encode, herr, hi]

theorem cmdWrite_accept {s : State} (hb : s.busy = false) {i : Instr} (hi : s.err = false ∨ i = .clr) :
    cmdWrite s (encode i) = s.accept i := by
  rcases hi with h | h <;> simp [cmdWrite, hb, decodeWord_encode, h]

/-- The words 1 to 5 are the words of the commands (R91). -/
theorem exists_eq_encode {v : Word} (hlo : 1 ≤ v.toNat) (hhi : v.toNat ≤ 5) : ∃ i : Instr, v = encode i := by
  interval_cases h : v.toNat
  · exact ⟨.gen, BitVec.eq_of_toNat_eq h⟩
  · exact ⟨.hmac, BitVec.eq_of_toNat_eq h⟩
  · exact ⟨.trunc, BitVec.eq_of_toNat_eq h⟩
  · exact ⟨.quant, BitVec.eq_of_toNat_eq h⟩
  · exact ⟨.clr, BitVec.eq_of_toNat_eq h⟩

theorem toNat_encode_eq_five (i : Instr) : (encode i).toNat = 5 ↔ i = .clr := by cases i <;> decide

theorem toNat_encode_eq_three (i : Instr) : (encode i).toNat = 3 ↔ i = .trunc := by cases i <;> decide

/-- Settles O20: the check for BUSY comes before the word is looked at. -/
theorem commandRejectedWhileBusy : Obligations.CommandRejectedWhileBusy := by
  intro s v hb
  rw [hostAccess_cmd, cmdWrite_busy hb]
  rfl

/-- Settles O21: the condition of R112 is the decoder's, so the word is refused whatever ERR says. -/
theorem illegalCommandRejected : Obligations.IllegalCommandRejected := by
  intro s v hb hv
  have hzero : opcodeField v = 0 ↔ (opcodeField v).toNat = 0 := BitVec.toNat_eq
  obtain ⟨e, he⟩ : ∃ e : DecodeError, decodeWord v = .error e := by
    rw [decodeWord_error_iff, hzero]
    exact hv.imp_right fun hop => by rw [opcodeField]; omega
  rw [hostAccess_cmd, cmdWrite_illegal hb he]
  rfl

/-- Settles O22: a command other than CLR waits for the recorded fault to be acknowledged. -/
theorem commandRejectedOnPendingFault : Obligations.CommandRejectedOnPendingFault := by
  intro s v hb herr hlo hhi
  obtain ⟨i, rfl⟩ := exists_eq_encode hlo (by omega)
  have hi : i ≠ .clr := fun h => by
    have := (toNat_encode_eq_five i).2 h
    omega
  rw [hostAccess_cmd, cmdWrite_faultPending hb herr hi]
  rfl

/-- Settles O23: the command is accepted, and which outputs that clears turns on its being TRUNC. -/
theorem commandAccepted : Obligations.CommandAccepted := by
  intro s v hb hlo hhi hv
  obtain ⟨i, rfl⟩ := exists_eq_encode hlo hhi
  rw [hostAccess_cmd, cmdWrite_accept hb (hv.imp_right (toNat_encode_eq_five i).1), Ne, toNat_encode_eq_three]
  refine ⟨?trunc, ?others⟩
  case trunc =>
    rintro rfl
    rfl
  case others =>
    intro hi
    cases i
    case trunc => exact absurd rfl hi
    all_goals rfl

/-! ### What a completion leaves (R116, R118, R120) -/

/-- `exec_cases` read as an inversion: where a completion goes on, the next state is the command's success or its fault. -/
theorem exec_next {s t : State} {i : Instr} (he : exec i s = .next t) :
    (i ≠ .clr ∧ ∃ f : FaultCode, t = s.raiseFault f) ∨
    (i = .gen ∧ ∃ A : Alg, t = genDone s A) ∨
    (i = .hmac ∧ ∃ A : Alg, t = hmacDone s A) ∨
    (i = .trunc ∧ t = truncDone s) ∨
    (i = .quant ∧ t = quantDone s) ∨
    (i = .clr ∧ t = s.clearOperands.clearOutputs.ackErr.finishOk) := by
  rcases exec_cases i s with ⟨hi, f, hx⟩ | ⟨hi, -, -, -, A, -, hx⟩ | ⟨hi, -, A, -, hx⟩ | ⟨hi, -, -, -, -, hx⟩ |
    ⟨hi, -, hx⟩ | ⟨hi, hx⟩ <;> rw [hx] at he <;> cases he
  · exact .inl ⟨hi, f, rfl⟩
  · exact .inr (.inl ⟨hi, A, rfl⟩)
  · exact .inr (.inr (.inl ⟨hi, A, rfl⟩))
  · exact .inr (.inr (.inr (.inl ⟨hi, rfl⟩)))
  · exact .inr (.inr (.inr (.inr (.inl ⟨hi, rfl⟩))))
  · exact .inr (.inr (.inr (.inr (.inr ⟨hi, rfl⟩))))

/-- Settles O31: each success sets DONE, and every other completion is a fault of a command other than CLR. -/
theorem completionSucceedsOrFaults : Obligations.CompletionSucceedsOrFaults := by
  intro i s
  obtain ⟨t, ht⟩ := exec_eq_next i s
  refine ⟨t, ht, exec_busy ht, ?_⟩
  rcases exec_next ht with ⟨hi, f, rfl⟩ | ⟨-, A, rfl⟩ | ⟨-, A, rfl⟩ | ⟨-, rfl⟩ | ⟨-, rfl⟩ | ⟨hclr, rfl⟩
  case inl =>
    obtain ⟨hlo, hhi⟩ := f.code_bounds
    exact .inr ⟨hi, f.code, hlo, hhi, rfl, fun hie => (irq_iff _).2 (.inr ⟨rfl, hie⟩)⟩
  case inr.inr.inr.inr.inr => exact .inl ⟨rfl, fun hi => absurd hclr hi⟩
  all_goals exact .inl ⟨rfl, fun _ => ⟨rfl, rfl⟩⟩

/-- Settles O32: no success writes one of these fields but CLR, which erases the operands, and a fault writes none. -/
theorem completionKeepsConfiguration : Obligations.CompletionKeepsConfiguration := by
  intro i s t he
  rcases exec_next he with ⟨-, f, rfl⟩ | ⟨-, A, rfl⟩ | ⟨-, A, rfl⟩ | ⟨-, rfl⟩ | ⟨-, rfl⟩ | ⟨hclr, rfl⟩
  case inl => simp
  case inr.inr.inr.inr.inr => simp [hclr]
  all_goals simp [genDone, hmacDone, truncDone, quantDone]

theorem execGen_keeps {s t : State} (he : exec .gen s = .next t) :
    t.dlen = s.dlen ∧ t.digest = s.digest ∧ t.truncOffset = s.truncOffset ∧ t.truncValue = s.truncValue := by
  obtain ⟨f, rfl⟩ | ⟨A, rfl⟩ : (∃ f : FaultCode, t = s.raiseFault f) ∨ ∃ A : Alg, t = genDone s A := by
    simpa using exec_next he
  all_goals exact ⟨rfl, rfl, rfl, rfl⟩

theorem execHmac_keeps {s t : State} (he : exec .hmac s = .next t) :
    t.bucket = s.bucket ∧ t.truncOffset = s.truncOffset ∧ t.truncValue = s.truncValue ∧ t.codeInt = s.codeInt ∧
      t.codeStr = s.codeStr := by
  obtain ⟨f, rfl⟩ | ⟨A, rfl⟩ : (∃ f : FaultCode, t = s.raiseFault f) ∨ ∃ A : Alg, t = hmacDone s A := by
    simpa using exec_next he
  all_goals exact ⟨rfl, rfl, rfl, rfl, rfl⟩

theorem execTrunc_keeps {s t : State} (he : exec .trunc s = .next t) :
    t.bucket = s.bucket ∧ t.dlen = s.dlen ∧ t.digest = s.digest := by
  obtain ⟨f, rfl⟩ | rfl : (∃ f : FaultCode, t = s.raiseFault f) ∨ t = truncDone s := by simpa using exec_next he
  all_goals exact ⟨rfl, rfl, rfl⟩

theorem execQuant_keeps {s t : State} (he : exec .quant s = .next t) :
    t.dlen = s.dlen ∧ t.digest = s.digest ∧ t.truncOffset = s.truncOffset ∧ t.truncValue = s.truncValue ∧
      t.codeInt = s.codeInt ∧ t.codeStr = s.codeStr := by
  obtain ⟨f, rfl⟩ | rfl : (∃ f : FaultCode, t = s.raiseFault f) ∨ t = quantDone s := by simpa using exec_next he
  all_goals exact ⟨rfl, rfl, rfl, rfl, rfl, rfl⟩

theorem execClr_next {s t : State} (he : exec .clr s = .next t) : t = s.clearOperands.clearOutputs.ackErr.finishOk := by
  simpa using exec_next he

/-- Settles O34: an output that a command does not write is left as acceptance left it, cleared or, for TRUNC, untouched. -/
theorem outputsPerCommand : Obligations.OutputsPerCommand := by
  intro s t i he
  obtain ⟨halg, hmode, hdigits, hperiod, -, -, -, -, hdone, herr, -, -, hoperands⟩ :=
    completionKeepsConfiguration i (s.accept i) t he
  simp only [State.accept_alg, State.accept_mode, State.accept_digits, State.accept_period, State.accept_doneIe,
    State.accept_errIe, State.accept_factor, State.accept_keylen, State.accept_key, State.accept_challen,
    State.accept_chal] at halg hmode hdigits hperiod hdone herr hoperands
  refine ⟨?gen, ?hmac, ?trunc, ?quant, ?clr, hoperands, halg, hmode, hdigits, hperiod, hdone, herr⟩
  case gen =>
    rintro rfl
    exact execGen_keeps he
  case hmac =>
    rintro rfl
    exact execHmac_keeps he
  case trunc =>
    rintro rfl
    exact execTrunc_keeps (s := s.accept .trunc) he
  case quant =>
    rintro rfl
    exact execQuant_keeps he
  case clr =>
    rintro rfl
    rw [execClr_next he]
    exact ⟨rfl, rfl, rfl, rfl, rfl, rfl, rfl, rfl, rfl, rfl, rfl, rfl⟩

/-- What CLR leaves, as one update (R120). -/
theorem execClr_eq_update (s : State) :
    exec .clr s = .next { s with
      factor := 0, keylen := 0, key := [], challen := 0, chal := [], bucket := 0, dlen := 0, digest := [], truncOffset := 0,
      truncValue := 0, codeInt := 0, codeStr := [], err := false, errcode := 0, busy := false, done := true } := by
  rw [execClr_eq]
  simp only [State.finishOk, State.ackErr, State.clearOutputs, State.clearTruncOutputs, State.clearOperands]

/-- Settles O29: the erased buffers are empty, and of the fields that CLR leaves, acceptance has set LASTOP alone. -/
theorem clrErases : Obligations.ClrErases := by
  intro s
  refine ⟨⟨_, execClr_eq_update s, rfl, fun _ => ⟨rfl, rfl, rfl, rfl⟩⟩, fun hb => cmdWrite_accept hb (.inr rfl), ?reset⟩
  case reset =>
    rw [execClr_eq_update]
    simp [State.reset, Instr.opcode]

/-! ### What a completion depends on (R117) -/

theorem keyBytes_congr {s s' : State} (hlen : s.keylen = s'.keylen)
    (hkey : ∀ j : Nat, j < s.keylen.toNat → s.key.read j = s'.key.read j) : s.keyBytes = s'.keyBytes := by
  rw [State.keyBytes, State.keyBytes, ← hlen]
  exact Memory.readBytes_congr 0 _ fun j _ hj => hkey j (by omega)

theorem digestBytes_congr {s s' : State} (hlen : s.dlen = s'.dlen)
    (hdigest : ∀ j : Nat, j < s.dlen.toNat → s.digest.read j = s'.digest.read j) : s.digestBytes = s'.digestBytes := by
  rw [State.digestBytes, State.digestBytes, ← hlen]
  exact Memory.readBytes_congr 0 _ fun j _ hj => hdigest j (by omega)

theorem digitsIllegal_congr {s s' : State} (hdigits : s.digits = s'.digits) : s.digitsIllegal = s'.digitsIllegal := by
  rw [Bool.eq_iff_iff, digitsIllegal_iff, digitsIllegal_iff, hdigits]

theorem keyTooLong_congr {s s' : State} (hlen : s.keylen = s'.keylen) : s.keyTooLong = s'.keyTooLong := by
  rw [Bool.eq_iff_iff, keyTooLong_iff, keyTooLong_iff, hlen]

/-- PERIOD is read in TOTP mode alone (30_encoding.md R94). -/
theorem periodIllegal_congr {s s' : State} (hmode : s.mode = s'.mode) (hperiod : s.mode = 0 → s.period = s'.period) :
    s.periodIllegal = s'.periodIllegal := by
  rw [Bool.eq_iff_iff, periodIllegal_iff, periodIllegal_iff, ← hmode]
  exact and_congr_right fun h0 => by rw [hperiod h0]

theorem effFactor_congr {s s' : State} (hmode : s.mode = s'.mode) (hperiod : s.mode = 0 → s.period = s'.period)
    (hfactor : s.factor = s'.factor) : effFactor s.mode s.factor s.period = effFactor s'.mode s'.factor s'.period := by
  rw [effFactor, effFactor, ← hmode, ← hfactor]
  by_cases h0 : s.mode = 0
  · rw [hperiod h0]
  · rw [if_neg h0, if_neg h0]

/-- Two completions of one command that R117 calls the same: DONE, the fault code on a fault, the truncation outputs and, but
for TRUNC, the rest of the output chain. -/
def EndAlike (i : Instr) (t t' : State) : Prop :=
  (t.done = t'.done ∧ (t.done = false → t.err = true ∧ t'.err = true ∧ t.errcode = t'.errcode)) ∧
  (t.truncOffset = t'.truncOffset ∧ t.truncValue = t'.truncValue ∧ t.codeInt = t'.codeInt ∧ t.codeStr = t'.codeStr) ∧
  (i ≠ .trunc → t.bucket = t'.bucket ∧ t.dlen = t'.dlen ∧ t.digest = t'.digest)

/-- A fault leaves the outputs as acceptance cleared them (60_exceptions.md R262). -/
theorem endAlike_raiseFault (s s' : State) (i : Instr) (f : FaultCode) :
    EndAlike i ((s.accept i).raiseFault f) ((s'.accept i).raiseFault f) := by
  refine ⟨?outcome, ?code, fun hi => ?chain⟩
  case outcome => simp
  case code => simp
  case chain => simp [State.accept_bucket, State.accept_dlen, State.accept_digest, hi]

/-- The command, once accepted, completes alike from both states. -/
def CompleteAlike (s s' : State) (i : Instr) : Prop :=
  ∃ t t' : State, exec i (s.accept i) = .next t ∧ exec i (s'.accept i) = .next t' ∧ EndAlike i t t'

theorem completeAlike_of_fault {s s' : State} {i : Instr} {f : FaultCode}
    (h : exec i (s.accept i) = .next ((s.accept i).raiseFault f))
    (h' : exec i (s'.accept i) = .next ((s'.accept i).raiseFault f)) : CompleteAlike s s' i :=
  ⟨_, _, h, h', endAlike_raiseFault s s' i f⟩

theorem completeAlike_hmac {s s' : State} (halg : s.alg = s'.alg) (hfactor : s.factor = s'.factor)
    (hlen : s.keylen = s'.keylen) (hkey : ∀ j : Nat, j < s.keylen.toNat → s.key.read j = s'.key.read j) :
    CompleteAlike s s' .hmac := by
  have hlong : (s.accept .hmac).keyTooLong = (s'.accept .hmac).keyTooLong := keyTooLong_congr hlen
  cases hk : (s.accept .hmac).keyTooLong
  case true => exact completeAlike_of_fault (execHmac_key _ hk) (execHmac_key _ (hlong ▸ hk))
  cases hA : Alg.ofCode s.alg with
  | none => exact completeAlike_of_fault (execHmac_alg _ hk hA) (execHmac_alg _ (hlong ▸ hk) (halg ▸ hA))
  | some A =>
    have hbytes : (s.accept .hmac).keyBytes = (s'.accept .hmac).keyBytes := keyBytes_congr hlen hkey
    refine ⟨_, _, execHmac_ok _ A hk hA, execHmac_ok _ A (hlong ▸ hk) (halg ▸ hA), ⟨rfl, nofun⟩,
      ⟨rfl, rfl, rfl, rfl⟩, fun _ => ⟨rfl, rfl, ?digest⟩⟩
    simp only [hmacDone, State.accept_digest, State.accept_factor, hbytes, hfactor, reduceCtorEq, if_false]

theorem completeAlike_quant {s s' : State} (hmode : s.mode = s'.mode) (hperiod : s.mode = 0 → s.period = s'.period)
    (hfactor : s.factor = s'.factor) : CompleteAlike s s' .quant := by
  have hill : (s.accept .quant).periodIllegal = (s'.accept .quant).periodIllegal := periodIllegal_congr hmode hperiod
  cases hp : (s.accept .quant).periodIllegal
  case true => exact completeAlike_of_fault (execQuant_period _ hp) (execQuant_period _ (hill ▸ hp))
  case false =>
    exact ⟨_, _, execQuant_ok _ hp, execQuant_ok _ (hill ▸ hp), ⟨rfl, nofun⟩, ⟨rfl, rfl, rfl, rfl⟩,
      fun _ => ⟨effFactor_congr hmode hperiod hfactor, rfl, rfl⟩⟩

theorem completeAlike_trunc {s s' : State} (hdigits : s.digits = s'.digits) (hlen : s.dlen = s'.dlen)
    (hdigest : ∀ j : Nat, j < s.dlen.toNat → s.digest.read j = s'.digest.read j) : CompleteAlike s s' .trunc := by
  have hill : (s.accept .trunc).digitsIllegal = (s'.accept .trunc).digitsIllegal := digitsIllegal_congr hdigits
  have hbytes : (s.accept .trunc).digestBytes = (s'.accept .trunc).digestBytes := digestBytes_congr hlen hdigest
  have hlen' : (s.accept .trunc).dlen = (s'.accept .trunc).dlen := hlen
  cases hd : (s.accept .trunc).digitsIllegal
  case true => exact completeAlike_of_fault (execTrunc_digits _ hd) (execTrunc_digits _ (hill ▸ hd))
  by_cases h0 : (s.accept .trunc).dlen = 0
  · exact completeAlike_of_fault (execTrunc_empty _ hd h0) (execTrunc_empty _ (hill ▸ hd) (hlen' ▸ h0))
  by_cases hs : 64 < (s.accept .trunc).dlen.toNat ∨
      (s.accept .trunc).dlen.toNat < (dynOffset (s.accept .trunc).digestBytes).toNat + 4
  · exact completeAlike_of_fault (execTrunc_short _ hd h0 hs)
      (execTrunc_short _ (hill ▸ hd) (hlen' ▸ h0) (by rwa [← hlen', ← hbytes]))
  obtain ⟨h64, ho⟩ := not_or.1 hs
  refine ⟨_, _, execTrunc_ok _ hd h0 (by omega) (by omega),
    execTrunc_ok _ (hill ▸ hd) (hlen' ▸ h0) (by rw [← hlen']; omega) (by rw [← hlen', ← hbytes]; omega),
    ⟨rfl, nofun⟩, ?code, fun h => absurd rfl h⟩
  have hcount : (s.accept .trunc).digitCount = (s'.accept .trunc).digitCount := congrArg BitVec.toNat hdigits
  simp only [truncDone, hbytes, hcount, State.accept_codeStr, and_self]

theorem completeAlike_gen {s s' : State} (halg : s.alg = s'.alg) (hfactor : s.factor = s'.factor)
    (hlen : s.keylen = s'.keylen) (hkey : ∀ j : Nat, j < s.keylen.toNat → s.key.read j = s'.key.read j)
    (hmode : s.mode = s'.mode) (hperiod : s.mode = 0 → s.period = s'.period) (hdigits : s.digits = s'.digits) :
    CompleteAlike s s' .gen := by
  have hdill : (s.accept .gen).digitsIllegal = (s'.accept .gen).digitsIllegal := digitsIllegal_congr hdigits
  have hpill : (s.accept .gen).periodIllegal = (s'.accept .gen).periodIllegal := periodIllegal_congr hmode hperiod
  have hlong : (s.accept .gen).keyTooLong = (s'.accept .gen).keyTooLong := keyTooLong_congr hlen
  cases hd : (s.accept .gen).digitsIllegal
  case true => exact completeAlike_of_fault (execGen_digits _ hd) (execGen_digits _ (hdill ▸ hd))
  cases hp : (s.accept .gen).periodIllegal
  case true => exact completeAlike_of_fault (execGen_period _ hd hp) (execGen_period _ (hdill ▸ hd) (hpill ▸ hp))
  cases hk : (s.accept .gen).keyTooLong
  case true =>
    exact completeAlike_of_fault (execGen_key _ hd hp hk) (execGen_key _ (hdill ▸ hd) (hpill ▸ hp) (hlong ▸ hk))
  cases hA : Alg.ofCode s.alg with
  | none =>
    exact completeAlike_of_fault (execGen_alg _ hd hp hk hA)
      (execGen_alg _ (hdill ▸ hd) (hpill ▸ hp) (hlong ▸ hk) (halg ▸ hA))
  | some A =>
    have hbytes : (s.accept .gen).keyBytes = (s'.accept .gen).keyBytes := keyBytes_congr hlen hkey
    have hcount : (s.accept .gen).digitCount = (s'.accept .gen).digitCount := congrArg BitVec.toNat hdigits
    have heff := effFactor_congr hmode hperiod hfactor
    refine ⟨_, _, execGen_ok _ A hd hp hk hA, execGen_ok _ A (hdill ▸ hd) (hpill ▸ hp) (hlong ▸ hk) (halg ▸ hA),
      ⟨rfl, nofun⟩, ?code, fun _ => ⟨heff, rfl, rfl⟩⟩
    simp only [genDone, State.accept_mode, State.accept_factor, State.accept_period, State.accept_truncOffset,
      State.accept_truncValue, State.accept_codeStr, heff, hbytes, hcount, and_self]

theorem completeAlike_clr (s s' : State) : CompleteAlike s s' .clr :=
  ⟨_, _, execClr_eq _, execClr_eq _, ⟨rfl, nofun⟩, ⟨rfl, rfl, rfl, rfl⟩, fun _ => ⟨rfl, rfl, rfl⟩⟩

/-- Settles O49: each condition a command checks and each value it writes is computed from the registers it reads. -/
theorem resultDependsOnOperandsOnly : Obligations.ResultDependsOnOperandsOnly := by
  intro s s'
  refine ⟨?gen, ?hmac, ?trunc, ?quant, completeAlike_clr s s'⟩
  case gen =>
    rintro ⟨halg, hfactor, hlen, hkey⟩ ⟨hmode, hperiod⟩ hdigits
    exact completeAlike_gen halg hfactor hlen hkey hmode hperiod hdigits
  case hmac =>
    rintro ⟨halg, hfactor, hlen, hkey⟩
    exact completeAlike_hmac halg hfactor hlen hkey
  case trunc =>
    rintro ⟨hlen, hdigest⟩ hdigits
    exact completeAlike_trunc hdigits hlen hdigest
  case quant =>
    rintro ⟨hmode, hperiod⟩ hfactor
    exact completeAlike_quant hmode hperiod hfactor

/-! ### When BUSY changes (R110, R119) -/

/-- No write of the host takes a command in progress away, and none changes what is pending. -/
theorem writeReg_whileBusy {s : State} (hb : s.busy = true) (v : Word) (r : Reg) :
    (writeReg s v r).busy = true ∧ (writeReg s v r).lastop = s.lastop ∧ (writeReg s v r).pending = s.pending := by
  rcases writeReg_cases s v r with ⟨-, e⟩ | ⟨-, e⟩ | ⟨-, e⟩ | ⟨-, -, e⟩ | ⟨-, hidle, -⟩ | ⟨-, -, -, -, e⟩
  · rw [e, cmdWrite_busy hb]
    exact ⟨hb, rfl, rfl⟩
  · rw [e, statusWrite_eq]
    exact ⟨hb, rfl, rfl⟩
  case inr.inr.inr.inr.inl => cases hb.symm.trans hidle
  all_goals
    rw [e]
    exact ⟨hb, rfl, rfl⟩

theorem hostAccess_whileBusy {s t : State} {a : Access} (ht : hostAccess s a = .next t) (hb : s.busy = true) :
    t.busy = true ∧ t.lastop = s.lastop ∧ t.pending = s.pending := by
  rcases hostAccess_next ht with ⟨r, rfl⟩ | ⟨off, v, -, rfl⟩
  · exact ⟨hb, rfl, rfl⟩
  · exact writeReg_whileBusy hb v (regAt off)

/-- An access inside the window is answered (20_memory.md R68). -/
theorem hostAccess_eq_next (s : State) {a : Access} (hin : a.off < 4096) : ∃ t : State, hostAccess s a = .next t := by
  rcases hostAccess_cases s a with ⟨hout, -⟩ | ⟨-, -, e⟩ | ⟨-, -, -, -, e⟩ | ⟨-, -, -, -, e⟩
  · omega
  all_goals exact ⟨_, e⟩

/-- Settles O48, by induction on the pending accesses: each leaves the command in progress, then the engine has its turn. -/
theorem acceptedCommandCompletes : Obligations.AcceptedCommandCompletes := by
  intro s i accesses
  induction accesses generalizing s with
  | nil =>
    intro hb hl _ hp
    obtain ⟨t, ht⟩ := exec_eq_next i s
    have hlast : decodeOpcode s.lastop = some i := (decodeOpcode_eq_some _ _).2 hl
    refine ⟨t, run_next 0 ?_, exec_busy ht⟩
    rw [step_nil s hp, engineStep_busy s i hb hlast, ht]
  | cons a accesses ih =>
    intro hb hl hin hp
    obtain ⟨hina, hinrest⟩ := List.forall_mem_cons.1 hin
    obtain ⟨u, hu⟩ := hostAccess_eq_next { s with pending := accesses.map Event.host } hina
    obtain ⟨hub, hul, hup⟩ := hostAccess_whileBusy hu hb
    have hstep : step s = .next u := (step_host s a _ hp).trans hu
    obtain ⟨t, ht, htb⟩ := ih u hub (hul.trans hl) hinrest hup
    exact ⟨t, (run_next _ hstep).trans ht, htb⟩

theorem cmdWrite_raisesBusy {s : State} {v : Word} (hb : s.busy = false) (hraised : (cmdWrite s v).busy = true) :
    ∃ i : Instr, v = encode i ∧ (s.err = false ∨ i = .clr) ∧ cmdWrite s v = s.accept i := by
  rcases cmdWrite_cases s v with ⟨-, e⟩ | ⟨-, -, e⟩ | ⟨i, -, -, -, -, e⟩ | ⟨i, -, hv, hi, e⟩
  case inr.inr.inr => exact ⟨i, hv, hi, e⟩
  all_goals
    rw [e, State.reject_busy] at hraised
    cases hb.symm.trans hraised

/-- Of all writes of an idle block only a write of CMD can start a command. -/
theorem writeReg_raisesBusy {s : State} {v : Word} {r : Reg} (hb : s.busy = false)
    (hraised : (writeReg s v r).busy = true) : r = .cmd := by
  by_contra hr
  have hsame : (writeReg s v r).busy = s.busy := by
    rcases writeReg_cases s v r with ⟨h, -⟩ | ⟨-, e⟩ | ⟨-, e⟩ | ⟨-, -, e⟩ | ⟨-, -, e⟩ | ⟨-, -, -, -, e⟩
    · exact absurd h hr
    · rw [e, statusWrite_eq]
    · rw [e]; rfl
    · rw [e, State.ignoreWrite_busy]
    · rw [e, storeLocked_busy]
    · rw [e]
  cases hb.symm.trans (hsame.symm.trans hraised)

theorem off_of_regAt_cmd {off : Nat} (h : regAt off = .cmd) : off = 0x00C := by
  have hat := isAt_regAt off
  rwa [h] at hat

theorem hostAccess_raisesBusy {s t : State} {a : Access} (hb : s.busy = false) (ht : hostAccess s a = .next t)
    (htb : t.busy = true) :
    ∃ (v : Word) (i : Instr), a = ⟨.write, 0x00C, 4, v⟩ ∧ decodeWord v = .ok i ∧ (s.err = false ∨ i = .clr) ∧
      t.lastop = i.opcode := by
  rcases hostAccess_next ht with ⟨r, rfl⟩ | ⟨off, v, rfl, rfl⟩
  · cases hb.symm.trans htb
  · obtain rfl := off_of_regAt_cmd (writeReg_raisesBusy hb htb)
    obtain ⟨i, hv, hi, e⟩ := cmdWrite_raisesBusy hb htb
    exact ⟨v, i, rfl, (decodeWord_eq_ok_iff v i).2 hv, hi, (congrArg State.lastop e).trans (s.accept_lastop i)⟩

/-- Settles O51, by the kind of event: an access only starts a command, the engine's turn only ends one, reset ends any. -/
theorem busyChangesOnlyByProtocol : Obligations.BusyChangesOnlyByProtocol := by
  refine ⟨rfl, fun s t e ht => ?_⟩
  cases e with
  | host a =>
    refine ⟨fun hb htb => ?_, fun hb htb => ?_⟩
    · obtain ⟨v, i, rfl, hstarted⟩ := hostAccess_raisesBusy hb ht htb
      exact ⟨v, i, rfl, hstarted⟩
    · obtain ⟨hstill, -, -⟩ := hostAccess_whileBusy ht hb
      cases htb.symm.trans hstill
  | engine =>
    refine ⟨fun hb htb => ?_, fun _ _ => .inl rfl⟩
    rw [eventStep, engineStep_idle s hb] at ht
    cases ht
    cases hb.symm.trans htb
  | reset =>
    refine ⟨fun _ htb => ?_, fun _ _ => .inr rfl⟩
    cases ht
    cases htb

end Sys2Proof.Machine
end

section
/-! SUPPORT. The Digest Function and the command HMAC (41_digest_hmac.md): the message, the key block, the construction, what
HMAC writes, and that no command reads the challenge. -/

namespace Sys2Proof.Machine

/-! ### The message (R141) -/

/-- The serialisation is byte aligned, so each byte is a field of the factor. -/
theorem getD_message (f : DWord) {i : Nat} (hi : i < 8) : (message f).getD i 0 = f.extractLsb' (56 - 8 * i) 8 := by
  have hpow : 256 ^ (8 - 1 - i) = 2 ^ (56 - 8 * i) := by
    rw [show 56 - 8 * i = 8 * (8 - 1 - i) by omega, pow_mul]
    rfl
  apply BitVec.eq_of_toNat_eq
  rw [message, getD_ser _ _ _ hi, hpow, BitVec.toNat_ofNat, BitVec.extractLsb'_toNat, Nat.shiftRight_eq_div_pow]

theorem message_eq_map (f : DWord) : message f = (List.range 8).map (fun i => f.extractLsb' (56 - 8 * i) 8) := by
  apply List.ext_getElem
  · simp [length_message]
  · intro i hi _
    rw [List.getElem_map, List.getElem_range, ← getD_message f (length_message f ▸ hi), List.getD_eq_getElem _ _ hi]

/-- A 64-bit number has no digit beyond the eighth byte. -/
theorem be_message (f : DWord) : be (message f) = f.toNat := by
  rw [message, be_ser]
  exact Nat.mod_eq_of_lt f.isLt

/-- Settles O39, byte by byte and as a number. -/
theorem messageIsBigEndianFactor : Obligations.MessageIsBigEndianFactor :=
  fun f => ⟨length_message f, be_message f, fun _ hi => getD_message f hi⟩

/-! ### The key block (R144) -/

theorem prepareKey_short {A : Alg} {key : List Byte} (h : key.length ≤ A.blockBytes) :
    prepareKey A key = key ++ zeros (A.blockBytes - key.length) := by
  rw [prepareKey, if_neg (by omega)]

/-- The hash of a long key fits a block, so it is a short key itself. -/
theorem prepareKey_long {A : Alg} {key : List Byte} (h : A.blockBytes < key.length) :
    prepareKey A key = prepareKey A (hash A key) := by
  have hfits : (hash A key).length ≤ A.blockBytes := length_hash A key ▸ digestBytes_le_blockBytes A
  rw [prepareKey_short hfits, prepareKey, if_pos h, length_hash]

theorem prepareKey_append_zeros {A : Alg} {key : List Byte} {n : Nat} (h : key.length + n ≤ A.blockBytes) :
    prepareKey A (key ++ zeros n) = prepareKey A key := by
  have hlen : (key ++ zeros n).length = key.length + n := by rw [List.length_append, length_zeros]
  have hzeros : zeros n ++ zeros (A.blockBytes - (key.length + n)) = zeros (A.blockBytes - key.length) := by
    rw [zeros, zeros, zeros, List.replicate_append_replicate]
    congr 1
    omega
  rw [prepareKey_short (hlen ▸ h), prepareKey_short (by omega), hlen, List.append_assoc, hzeros]

theorem getElem?_prepareKey_short {A : Alg} {key : List Byte} (h : key.length ≤ A.blockBytes) {i : Nat}
    (hi : i < A.blockBytes) : (prepareKey A key)[i]? = some (if i < key.length then key.getD i 0 else 0) := by
  rw [prepareKey_short h]
  by_cases hkey : i < key.length
  · rw [if_pos hkey, List.getElem?_append_left hkey, List.getD_eq_getElem _ _ hkey, List.getElem?_eq_getElem]
  · rw [if_neg hkey, List.getElem?_append_right (by omega), zeros, List.getElem?_replicate_of_lt (by omega)]

/-- Byte `i` of the block, for a key of any length. -/
theorem getElem?_prepareKey (A : Alg) (key : List Byte) {i : Nat} (hi : i < A.blockBytes) :
    (prepareKey A key)[i]? = some (
      if A.blockBytes < key.length then (if i < A.digestBytes then (hash A key).getD i 0 else 0)
      else if i < key.length then key.getD i 0 else 0) := by
  by_cases hlong : A.blockBytes < key.length
  · have hfits : (hash A key).length ≤ A.blockBytes := length_hash A key ▸ digestBytes_le_blockBytes A
    rw [if_pos hlong, prepareKey_long hlong, getElem?_prepareKey_short hfits hi, length_hash]
  · rw [if_neg hlong, getElem?_prepareKey_short (by omega) hi]

/-! ### The construction (R145 to R147) -/

/-- The Digest Function reads the key through its block alone. -/
theorem digestFn_eq_hash (A : Alg) (key : List Byte) (f : DWord) :
    digestFn A key f =
      hash A (xorPad (prepareKey A key) opad ++ hash A (xorPad (prepareKey A key) ipad ++ message f)) := rfl

theorem digestFn_congr_prepareKey {A : Alg} {key key' : List Byte} (h : prepareKey A key = prepareKey A key') (f : DWord) :
    digestFn A key f = digestFn A key' f := by
  rw [digestFn_eq_hash, digestFn_eq_hash, h]

/-- Settles O40: in both cases the two keys have one key block. -/
theorem longKeyHashedShortKeyPadded : Obligations.LongKeyHashedShortKeyPadded :=
  fun _ _ f => ⟨fun hlong => digestFn_congr_prepareKey (prepareKey_long hlong) f,
    fun _ hn => digestFn_congr_prepareKey (prepareKey_append_zeros hn) f⟩

/-- Settles O55: `k0` is the key block. -/
theorem hmacConstruction : Obligations.HmacConstruction := by
  refine ⟨⟨rfl, rfl, rfl, rfl, rfl, rfl⟩, fun A key f => ⟨length_hash A key, prepareKey A key, length_prepareKey A key,
    fun i hi => getElem?_prepareKey A key hi, ?digest⟩⟩
  case digest =>
    rw [← message_eq_map]
    exact digestFn_eq_hash A key f

/-! ### The command HMAC (R148) -/

theorem read_writeDigest {m : Memory} (h : m.wf 64 = true) (A : Alg) (key : List Byte) (f : DWord) (i : Nat) :
    (m.writeBytes 0 (digestFn A key f)).read i =
      if i < A.digestBytes then (digestFn A key f).getD i 0 else m.read i := by
  obtain ⟨-, hfits⟩ := digestBytes_bounds A
  rw [Memory.read_writeBytes h 0 _ (by rw [length_digestFn]; omega), length_digestFn]
  simp only [Nat.zero_le, true_and, Nat.zero_add, Nat.sub_zero]

/-- Settles O26: the digest is at most 64 bytes, so its write stays inside the buffer. -/
theorem hmacWritesDigest : Obligations.HmacWritesDigest := by
  intro s A hA hlen hwf
  refine ⟨_, execHmac_ok s A ((keyTooLong_eq_false s).2 hlen) hA, fun i => ?byte⟩
  case byte =>
    rw [← keyBytes_eq]
    exact read_writeDigest hwf A s.keyBytes s.factor i

/-! ### The challenge (R149)

Each condition a command checks, and each value it writes, is by computation the same one under another challenge. -/

/-- The state with another challenge. -/
def State.withChallenge (s : State) (c : Memory) (n : BitVec 16) : State := { s with chal := c, challen := n }

/-- The command completes under another challenge as it does without it, and keeps that challenge. -/
def IgnoresChallenge (i : Instr) (s : State) : Prop :=
  ∃ t : State, exec i s = .next t ∧
    ∀ (c : Memory) (n : BitVec 16), exec i (s.withChallenge c n) = .next (t.withChallenge c n)

theorem ignoresChallenge_quant (s : State) : IgnoresChallenge .quant s := by
  cases hp : s.periodIllegal with
  | true => exact ⟨_, execQuant_period s hp, fun c n => execQuant_period (s.withChallenge c n) hp⟩
  | false => exact ⟨_, execQuant_ok s hp, fun c n => execQuant_ok (s.withChallenge c n) hp⟩

theorem ignoresChallenge_hmac (s : State) : IgnoresChallenge .hmac s := by
  cases hk : s.keyTooLong with
  | true => exact ⟨_, execHmac_key s hk, fun c n => execHmac_key (s.withChallenge c n) hk⟩
  | false =>
    cases hA : Alg.ofCode s.alg with
    | none => exact ⟨_, execHmac_alg s hk hA, fun c n => execHmac_alg (s.withChallenge c n) hk hA⟩
    | some A => exact ⟨_, execHmac_ok s A hk hA, fun c n => execHmac_ok (s.withChallenge c n) A hk hA⟩

theorem ignoresChallenge_trunc (s : State) : IgnoresChallenge .trunc s := by
  cases hd : s.digitsIllegal
  case true => exact ⟨_, execTrunc_digits s hd, fun c n => execTrunc_digits (s.withChallenge c n) hd⟩
  by_cases h0 : s.dlen = 0
  · exact ⟨_, execTrunc_empty s hd h0, fun c n => execTrunc_empty (s.withChallenge c n) hd h0⟩
  by_cases hs : 64 < s.dlen.toNat ∨ s.dlen.toNat < (dynOffset s.digestBytes).toNat + 4
  · exact ⟨_, execTrunc_short s hd h0 hs, fun c n => execTrunc_short (s.withChallenge c n) hd h0 hs⟩
  have h64 : s.dlen.toNat ≤ 64 := by omega
  have hfits : (dynOffset s.digestBytes).toNat + 4 ≤ s.dlen.toNat := by omega
  exact ⟨_, execTrunc_ok s hd h0 h64 hfits, fun c n => execTrunc_ok (s.withChallenge c n) hd h0 h64 hfits⟩

theorem ignoresChallenge_gen (s : State) : IgnoresChallenge .gen s := by
  cases hd : s.digitsIllegal
  case true => exact ⟨_, execGen_digits s hd, fun c n => execGen_digits (s.withChallenge c n) hd⟩
  cases hp : s.periodIllegal
  case true => exact ⟨_, execGen_period s hd hp, fun c n => execGen_period (s.withChallenge c n) hd hp⟩
  cases hk : s.keyTooLong
  case true => exact ⟨_, execGen_key s hd hp hk, fun c n => execGen_key (s.withChallenge c n) hd hp hk⟩
  cases hA : Alg.ofCode s.alg with
  | none => exact ⟨_, execGen_alg s hd hp hk hA, fun c n => execGen_alg (s.withChallenge c n) hd hp hk hA⟩
  | some A => exact ⟨_, execGen_ok s A hd hp hk hA, fun c n => execGen_ok (s.withChallenge c n) A hd hp hk hA⟩

theorem ignoresChallenge_of_ne_clr {i : Instr} (hi : i ≠ .clr) (s : State) : IgnoresChallenge i s := by
  cases i with
  | gen => exact ignoresChallenge_gen s
  | hmac => exact ignoresChallenge_hmac s
  | trunc => exact ignoresChallenge_trunc s
  | quant => exact ignoresChallenge_quant s
  | clr => exact absurd rfl hi

/-- Settles O50: CLR erases either challenge; every other command goes on under it as it would have. -/
theorem challengeChangesNoResult : Obligations.ChallengeChangesNoResult := by
  intro i s c n
  by_cases hi : i = .clr
  · subst hi
    exact ⟨_, _, execClr_eq_update s, execClr_eq_update (s.withChallenge c n), rfl, fun h => absurd rfl h,
      fun _ => ⟨rfl, fun _ => rfl⟩⟩
  · obtain ⟨t, ht, hother⟩ := ignoresChallenge_of_ne_clr hi s
    exact ⟨t, t.withChallenge c n, ht, hother c n, rfl, fun _ => ⟨rfl, rfl⟩, fun h => absurd h hi⟩

end Sys2Proof.Machine
end

section
/-! SUPPORT. The hash primitives (42_sha_primitives.md): the padded message, its length and its parts, and the known answers
of the three hash functions. -/

namespace Sys2Proof.Machine

/-! ### The number of zero bytes (R162) -/

theorem blockBytes_pos (A : Alg) : 0 < A.blockBytes := by cases A <;> decide

/-- The zeros alone never fill a block. -/
theorem padZeros_lt {B : Nat} (hB : 0 < B) (LF n : Nat) : padZeros B LF n < B := Nat.mod_lt _ hB

/-- The zeros are what the message, 0x80 and the length field lack to whole blocks. -/
theorem add_padZeros_mod {B : Nat} (hB : 0 < B) (LF n : Nat) : (n + 1 + LF + padZeros B LF n) % B = 0 := by
  have hlt : (n + 1 + LF) % B < B := Nat.mod_lt _ hB
  calc (n + 1 + LF + padZeros B LF n) % B
      = ((n + 1 + LF) % B + (B - (n + 1 + LF) % B)) % B := by rw [padZeros, Nat.add_mod_mod, ← Nat.mod_add_mod]
    _ = B % B := by rw [Nat.add_sub_of_le hlt.le]
    _ = 0 := Nat.mod_self B

/-! ### The padded message (R160, R162) -/

theorem length_padMessage (A : Alg) (m : List Byte) :
    (padMessage A m).length = m.length + 1 + A.lengthBytes + padZeros A.blockBytes A.lengthBytes m.length := by
  simp only [padMessage, List.length_append, List.length_singleton, length_zeros, length_ser]
  omega

theorem length_padMessage_mod (A : Alg) (m : List Byte) : (padMessage A m).length % A.blockBytes = 0 := by
  rw [length_padMessage]
  exact add_padZeros_mod (blockBytes_pos A) _ _

theorem prefix_padMessage (A : Alg) (m : List Byte) : (m ++ [0x80]) <+: padMessage A m := by
  rw [padMessage, List.append_assoc (m ++ [0x80])]
  exact List.prefix_append _ _

/-- Past the message and 0x80, before the length field, stands one of the zeros. -/
theorem getElem?_padMessage_zero (A : Alg) (m : List Byte) {i : Nat} (hi : m.length + 1 ≤ i)
    (hfield : i + A.lengthBytes < (padMessage A m).length) : (padMessage A m)[i]? = some 0 := by
  rw [length_padMessage] at hfield
  have hlen : (m ++ [0x80]).length = m.length + 1 := List.length_append
  rw [padMessage, List.append_assoc (m ++ [0x80]), List.getElem?_append_right (by omega), hlen,
    List.getElem?_append_left (by rw [length_zeros]; omega), zeros, List.getElem?_replicate_of_lt (by omega)]

/-- The last bytes are the length field. -/
theorem drop_padMessage (A : Alg) (m : List Byte) :
    (padMessage A m).drop ((padMessage A m).length - A.lengthBytes) = ser A.lengthBytes (8 * m.length) := by
  rw [padMessage, List.length_append, length_ser, Nat.add_sub_cancel, List.drop_left]

theorem be_drop_padMessage (A : Alg) (m : List Byte) :
    be ((padMessage A m).drop ((padMessage A m).length - A.lengthBytes)) = 8 * m.length % 256 ^ A.lengthBytes := by
  rw [drop_padMessage, be_ser]

/-- The blocks of a padded message are all of it, since it is whole blocks. -/
theorem flatten_paddedBlocks (A : Alg) (m : List Byte) :
    (paddedBlocks A m).flatten = padMessage A m ∧ ∀ b ∈ paddedBlocks A m, b.length = A.blockBytes :=
  flatten_blocksOf _ _ _ (Nat.div_mul_cancel (Nat.dvd_of_mod_eq_zero (length_padMessage_mod A m))).symm

/-- Settles O41, part by part: the zeros complete the last block and are fewer than a block. -/
theorem paddingFillsWholeBlocks : Obligations.PaddingFillsWholeBlocks := by
  intro A m
  have hlen := length_padMessage A m
  have hfew := padZeros_lt (blockBytes_pos A) A.lengthBytes m.length
  exact ⟨prefix_padMessage A m, fun _ hi hfield => getElem?_padMessage_zero A m hi hfield, be_drop_padMessage A m,
    length_padMessage_mod A m, by omega, by omega, flatten_paddedBlocks A m⟩

/-! ### The known answers (R178) -/

/-- Settles O56, by evaluation: each of the six digests is a closed term over one block. -/
theorem hashKnownAnswers : Obligations.HashKnownAnswers := by
  refine ⟨?sha1_empty, ?sha256_empty, ?sha512_empty, ?sha1_abc, ?sha256_abc, ?sha512_abc⟩
  all_goals decide +kernel

end Sys2Proof.Machine
end

section
/-! SUPPORT. The Code Generator (43_codegen_quant_trunc.md): the floor of the quantizer, the code and its decimal string, what
QUANT, TRUNC and GEN leave when they succeed, and GEN as the composition of its stages. -/

namespace Sys2Proof.Machine

/-! ### The code and its string (R198, R199) -/

/-- Settles O42: the code is a residue by 10^d, and 10^10 is above every 31-bit value. -/
theorem codeWithinRange : Obligations.CodeWithinRange := by
  intro value d
  refine ⟨Nat.mod_lt _ (by positivity), codeOf_lt value d, ⟨value.toNat / 10 ^ d, (Nat.div_add_mod' _ _).symm⟩, ?ten⟩
  case ten =>
    rintro rfl
    exact Nat.mod_eq_of_lt (lt_trans value.isLt (by norm_num))

/-- The decimal reading of a string of ASCII digits, the most significant first. -/
def decimal (bs : List Byte) : Nat := bs.foldl (fun n b => n * 10 + (b.toNat - 0x30)) 0

theorem decimal_concat (bs : List Byte) (b : Byte) : decimal (bs ++ [b]) = decimal bs * 10 + (b.toNat - 0x30) := by
  simp [decimal]

/-- The first `k` characters read as the code without its last `d - k` digits. -/
theorem decimal_map_fmtChar {code d : Nat} (hcode : code < 10 ^ d) {k : Nat} (hk : k ≤ d) :
    decimal ((List.range k).map (fmtChar code d)) = code / 10 ^ (d - k) := by
  induction k with
  | zero => exact (Nat.div_eq_of_lt hcode).symm
  | succ k ih =>
    have hpow : 10 ^ (d - k) = 10 ^ (d - (k + 1)) * 10 := by rw [← pow_succ, show d - (k + 1) + 1 = d - k by omega]
    rw [List.range_succ, List.map_append, List.map_singleton, decimal_concat, ih (by omega), toNat_fmtChar, hpow,
      ← Nat.div_div_eq_div_mul, show d - 1 - k = d - (k + 1) by omega, Nat.add_sub_cancel_left, Nat.div_add_mod']

theorem decimal_fmt {code d : Nat} (hcode : code < 10 ^ d) : decimal (fmt code d) = code := by
  simpa [fmt] using decimal_map_fmtChar hcode le_rfl

theorem toNat_getD_fmt (code : Nat) {d i : Nat} (hi : i < d) :
    ((fmt code d).getD i 0).toNat = 0x30 + code / 10 ^ (d - 1 - i) % 10 := by
  rw [getD_fmt _ _ _ hi]
  exact toNat_fmtChar code d i

theorem digit_of_mem_fmt {code d : Nat} {b : Byte} (hb : b ∈ fmt code d) : 0x30 ≤ b.toNat ∧ b.toNat ≤ 0x39 := by
  obtain ⟨i, -, rfl⟩ := List.mem_map.1 hb
  rw [toNat_fmtChar]
  omega

/-- Settles O43: each character is the digit of its place, so Horner's rule gives the code back. -/
theorem codeStringIsDecimal : Obligations.CodeStringIsDecimal := by
  intro code d hcode
  refine ⟨length_fmt code d, fun _ => digit_of_mem_fmt, fun _ => toNat_getD_fmt code, decimal_fmt hcode, ?ten, ?tail⟩
  case ten =>
    rintro rfl h31
    rw [toNat_getD_fmt code (by norm_num)]
    omega
  case tail =>
    intro hd i hi
    rw [read_writeCode (Memory.wf_nil 12) code d hd, if_neg (by omega), Memory.read_nil]

/-! ### Quantization and the command QUANT (R191 to R194, R203) -/

/-- The bucket in TOTP mode is the greatest `q` with `q * p <= f` (R191). -/
theorem effFactor_totp_floors {mode : BitVec 1} (hm : mode = 0) (f : DWord) {p : Word} (hp : p ≠ 0) :
    (effFactor mode f p).toInt * p.toNat ≤ f.toInt ∧ f.toInt < ((effFactor mode f p).toInt + 1) * p.toNat := by
  have hpos : 0 < p.toNat := Nat.pos_of_ne_zero fun h0 => hp (BitVec.eq_of_toNat_eq h0)
  rw [hm, toInt_effFactor_totp f p hp]
  exact floorDiv_spec f.toInt p.toNat hpos

theorem effFactor_of_hotp {mode : BitVec 1} (hm : mode = 1) (f : DWord) (p : Word) : effFactor mode f p = f := by
  rw [hm, effFactor_hotp]

theorem periodIllegal_eq_false_of_ne_zero {s : State} (hp : s.period ≠ 0) : s.periodIllegal = false :=
  (periodIllegal_eq_false s).2 fun h => hp h.2

theorem periodIllegal_eq_false_of_hotp {s : State} (hm : s.mode = 1) : s.periodIllegal = false := by
  rw [periodIllegal_eq_false, hm]
  exact fun h => absurd h.1 (by decide)

/-- Settles O24: the period is legal, and the bucket is the floor of the signed functor. -/
theorem quantTotpFloors : Obligations.QuantTotpFloors := by
  intro s hm hp
  exact ⟨effFactor s.mode s.factor s.period, execQuant_ok s (periodIllegal_eq_false_of_ne_zero hp),
    effFactor_totp_floors hm s.factor hp⟩

/-! ### What GEN can do (R205, R207) -/

/-- GEN succeeds, or takes a fault other than EmptyDigest (code 3) and DigestLength (code 6): its digest has at least 20
bytes (R207). -/
theorem execGen_cases (s : State) :
    (∃ f : FaultCode, f.code ≠ 3 ∧ f.code ≠ 6 ∧ exec .gen s = .next (s.raiseFault f)) ∨
    (s.digitsIllegal = false ∧ s.periodIllegal = false ∧ s.keyTooLong = false ∧
      ∃ A : Alg, Alg.ofCode s.alg = some A ∧ exec .gen s = .next (genDone s A)) := by
  cases hd : s.digitsIllegal
  case true => exact .inl ⟨.digitsRange, by decide, by decide, execGen_digits s hd⟩
  cases hp : s.periodIllegal
  case true => exact .inl ⟨.periodZero, by decide, by decide, execGen_period s hd hp⟩
  cases hk : s.keyTooLong
  case true => exact .inl ⟨.invalidSecret, by decide, by decide, execGen_key s hd hp hk⟩
  cases hA : Alg.ofCode s.alg with
  | none => exact .inl ⟨.algorithmUnavailable, by decide, by decide, execGen_alg s hd hp hk hA⟩
  | some A => exact .inr ⟨rfl, rfl, rfl, A, rfl, execGen_ok s A hd hp hk hA⟩

/-- Where GEN sets DONE, its operands are legal and it has left its results. -/
theorem execGen_done {s t : State} (hs : s.done = false) (he : exec .gen s = .next t) (ht : t.done = true) :
    s.digitsIllegal = false ∧ s.periodIllegal = false ∧ s.keyTooLong = false ∧
      ∃ A : Alg, Alg.ofCode s.alg = some A ∧ t = genDone s A := by
  rcases execGen_cases s with ⟨f, -, -, hx⟩ | ⟨hd, hp, hk, A, hA, hx⟩ <;> rw [hx] at he <;> cases he
  case inl => exact absurd ht (by simp [hs])
  case inr => exact ⟨hd, hp, hk, A, hA, rfl⟩

/-- Settles O36: a success leaves ERRCODE, and no fault of GEN has the code 3 or 6. -/
theorem genNeverEmptyOrShortDigest : Obligations.GenNeverEmptyOrShortDigest := by
  intro s t h0 he
  rcases execGen_cases s with ⟨f, hempty, hshort, hx⟩ | ⟨-, -, -, A, -, hx⟩ <;> rw [hx] at he <;> cases he
  case inl => exact ⟨hempty, hshort⟩
  case inr =>
    have hcode : (genDone s A).errcode = 0 := h0
    rw [hcode]
    exact ⟨by decide, by decide⟩

/-- Settles O25: neither command divides in HOTP mode. -/
theorem hotpPassesFunctor : Obligations.HotpPassesFunctor := by
  intro s hm
  have hbucket := effFactor_of_hotp hm s.factor s.period
  refine ⟨?quant, fun hs t he ht => ?gen⟩
  case quant => rw [execQuant_ok s (periodIllegal_eq_false_of_hotp hm), quantDone, hbucket]
  case gen =>
    obtain ⟨-, -, -, A, -, rfl⟩ := execGen_done hs he ht
    exact hbucket

/-! ### The commands TRUNC and GEN (R204, R205) -/

/-- The value in the bytes of DIGEST (R196, R197). -/
theorem toNat_dynValue_digestBytes {s : State} {off : Nat} (hoff : (dynOffset s.digestBytes).toNat = off)
    (hfits : off + 4 ≤ s.dlen.toNat) :
    (dynValue s.digestBytes).toNat =
      ((s.digest.read off).toNat * 2 ^ 24 + (s.digest.read (off + 1)).toNat * 2 ^ 16 +
        (s.digest.read (off + 2)).toNat * 2 ^ 8 + (s.digest.read (off + 3)).toNat) % 2 ^ 31 := by
  rw [toNat_dynValue _ (by rw [length_digestBytes]; omega), hoff, getD_digestBytes s off (by omega),
    getD_digestBytes s (off + 1) (by omega), getD_digestBytes s (off + 2) (by omega),
    getD_digestBytes s (off + 3) (by omega)]

/-- Settles O27: the operands are legal, and each result is read off the digest's bytes. -/
theorem truncWritesCode : Obligations.TruncWritesCode := by
  intro s hlo hhi h1 h64 hwf off value code hfits
  have h0 : s.dlen ≠ 0 := fun h => by simp [h] at h1
  have hoff : (dynOffset s.digestBytes).toNat = off := toNat_dynOffset_digestBytes s h0
  have hvalue : (dynValue s.digestBytes).toNat = value := toNat_dynValue_digestBytes hoff hfits
  have hcode : codeOf (dynValue s.digestBytes) s.digitCount = code := congrArg (· % 10 ^ s.digits.toNat) hvalue
  refine ⟨s.codeStr.writeBytes 0 (fmt code s.digits.toNat), ?state, read_writeCode hwf code _ hhi⟩
  case state =>
    rw [execTrunc_ok s ((digitsIllegal_eq_false s).2 ⟨hlo, hhi⟩) h0 h64 (by omega), truncDone, hcode, ← hoff, ← hvalue,
      BitVec.ofNat_toNat, BitVec.setWidth_eq, BitVec.ofNat_toNat, BitVec.setWidth_eq]
    rfl

/-- Settles O28: the operands are legal, and each result is read off the digest of the bucket. -/
theorem genWritesCode : Obligations.GenWritesCode := by
  intro s A hlo hhi hperiod hkey hA hwf
  have hp : s.periodIllegal = false := hperiod.elim periodIllegal_eq_false_of_hotp periodIllegal_eq_false_of_ne_zero
  refine ⟨effFactor s.mode s.factor s.period, (genDone s A).codeStr, fun hm => effFactor_of_hotp hm _ _, fun hm => ?floor,
    ?code⟩
  case floor => exact effFactor_totp_floors hm s.factor fun hz => (periodIllegal_eq_false s).1 hp ⟨hm, hz⟩
  case code =>
    rw [← keyBytes_eq]
    intro dg off value code
    have hlen : dg.length = A.digestBytes := length_digestFn A s.keyBytes _
    have hoff : (dynOffset dg).toNat = off := by rw [toNat_dynOffset, hlen]
    have hfits : (dynOffset dg).toNat + 4 ≤ dg.length := by
      have := dynOffset_lt dg
      have := digestBytes_bounds A
      omega
    have hvalue : (dynValue dg).toNat = value := by rw [toNat_dynValue dg hfits, hoff]
    have hcode : codeOf (dynValue dg) s.digitCount = code := congrArg (· % 10 ^ s.digits.toNat) hvalue
    refine ⟨hlen, ?state, ?string⟩
    case state =>
      rw [execGen_ok s A ((digitsIllegal_eq_false s).2 ⟨hlo, hhi⟩) hp ((keyTooLong_eq_false s).2 hkey) hA, ← hcode]
      rfl
    case string =>
      rw [← hcode]
      exact read_writeCode hwf _ _ hhi

/-! ### GEN and its stages (R206) -/

/-- The digest HMAC leaves in an empty buffer is the digest TRUNC reads (R94, R148). -/
theorem digestBytes_hmacDone {s : State} (hempty : s.digest = []) (A : Alg) :
    (hmacDone s A).digestBytes = digestFn A s.keyBytes s.factor := by
  have hlen := length_digestFn A s.keyBytes s.factor
  have hdlen : (hmacDone s A).dlen.toNat = (digestFn A s.keyBytes s.factor).length := by
    rw [hlen]
    cases A <;> rfl
  have hfits := (digestBytes_bounds A).2
  rw [State.digestBytes, hdlen, hmacDone, hempty]
  exact Memory.readBytes_writeBytes (Memory.wf_nil 64) 0 _ (by omega)

/-- The host's copy of BUCKET into FACTOR, between QUANT and HMAC. -/
def State.copyBucket (s : State) : State := { s with factor := s.bucket }

@[simp] theorem State.copyBucket_factor (s : State) : s.copyBucket.factor = s.bucket := rfl
@[simp] theorem State.copyBucket_alg (s : State) : s.copyBucket.alg = s.alg := rfl
@[simp] theorem State.copyBucket_digits (s : State) : s.copyBucket.digits = s.digits := rfl
@[simp] theorem State.copyBucket_keylen (s : State) : s.copyBucket.keylen = s.keylen := rfl
@[simp] theorem State.copyBucket_key (s : State) : s.copyBucket.key = s.key := rfl

@[simp] theorem quantDone_bucket (s : State) : (quantDone s).bucket = effFactor s.mode s.factor s.period := rfl
@[simp] theorem quantDone_alg (s : State) : (quantDone s).alg = s.alg := rfl
@[simp] theorem quantDone_digits (s : State) : (quantDone s).digits = s.digits := rfl
@[simp] theorem quantDone_keylen (s : State) : (quantDone s).keylen = s.keylen := rfl
@[simp] theorem quantDone_key (s : State) : (quantDone s).key = s.key := rfl

/-- The state in which the engine runs HMAC: after QUANT and the copy of the bucket. -/
def hmacStage (s : State) : State := (quantDone (s.accept .quant)).copyBucket.accept .hmac

@[simp] theorem hmacStage_factor (s : State) : (hmacStage s).factor = effFactor s.mode s.factor s.period := by
  simp [hmacStage]

@[simp] theorem hmacStage_alg (s : State) : (hmacStage s).alg = s.alg := by simp [hmacStage]

@[simp] theorem hmacStage_digits (s : State) : (hmacStage s).digits = s.digits := by simp [hmacStage]

@[simp] theorem hmacStage_keylen (s : State) : (hmacStage s).keylen = s.keylen := by simp [hmacStage]

@[simp] theorem hmacStage_key (s : State) : (hmacStage s).key = s.key := by simp [hmacStage]

@[simp] theorem hmacStage_digest (s : State) : (hmacStage s).digest = [] := by simp [hmacStage, State.accept_digest]

theorem hmacStage_keyBytes (s : State) : (hmacStage s).keyBytes = s.keyBytes := by simp [State.keyBytes]

/-- The state in which the engine runs TRUNC: after QUANT and HMAC. -/
def truncStage (s : State) (A : Alg) : State := (hmacDone (hmacStage s) A).accept .trunc

theorem truncStage_digits (s : State) (A : Alg) : (truncStage s A).digits = s.digits := by
  simp [truncStage, hmacDone]

theorem truncStage_codeStr (s : State) (A : Alg) : (truncStage s A).codeStr = [] := State.accept_codeStr _ _

/-- TRUNC reads the digest of the bucket, the one GEN computes (R205). -/
theorem digestBytes_truncStage (s : State) (A : Alg) :
    (truncStage s A).digestBytes = digestFn A s.keyBytes (effFactor s.mode s.factor s.period) := by
  have hkept : ∀ u : State, (u.accept .trunc).digestBytes = u.digestBytes := fun _ => rfl
  rw [truncStage, hkept, digestBytes_hmacDone (hmacStage_digest s), hmacStage_keyBytes, hmacStage_factor]

theorem dlen_truncStage_bounds (s : State) (A : Alg) :
    20 ≤ (truncStage s A).dlen.toNat ∧ (truncStage s A).dlen.toNat ≤ 64 := by
  rw [← length_digestBytes, digestBytes_truncStage, length_digestFn]
  exact digestBytes_bounds A

theorem execHmac_hmacStage {s : State} {A : Alg} (hk : s.keyTooLong = false) (hA : Alg.ofCode s.alg = some A) :
    exec .hmac (hmacStage s) = .next (hmacDone (hmacStage s) A) :=
  execHmac_ok _ A ((keyTooLong_congr (hmacStage_keylen s)).trans hk) (by rw [hmacStage_alg, hA])

theorem execTrunc_truncStage {s : State} (hd : s.digitsIllegal = false) (A : Alg) :
    exec .trunc (truncStage s A) = .next (truncDone (truncStage s A)) := by
  obtain ⟨h20, h64⟩ := dlen_truncStage_bounds s A
  have hoff := dynOffset_lt (truncStage s A).digestBytes
  have h0 : (truncStage s A).dlen ≠ 0 := fun h => absurd h20 (by rw [h]; decide)
  exact execTrunc_ok _ ((digitsIllegal_congr (truncStage_digits s A)).trans hd) h0 h64 (by omega)

/-- The last stage leaves GEN's code, as a number and as a string. -/
theorem truncDone_truncStage (s : State) (A : Alg) :
    (truncDone (truncStage s A)).codeInt = (genDone (s.accept .gen) A).codeInt ∧
      (truncDone (truncStage s A)).codeStr = (genDone (s.accept .gen) A).codeStr := by
  have hkeys : (s.accept .gen).keyBytes = s.keyBytes := rfl
  simp only [truncDone, digestBytes_truncStage, genDone, hkeys, State.digitCount, truncStage_digits, truncStage_codeStr,
    State.accept_digits, State.accept_mode, State.accept_factor, State.accept_period, State.accept_codeStr, and_self]

/-- Settles O46: QUANT leaves GEN's bucket, HMAC on it the digest GEN computes, and TRUNC reads that digest. -/
theorem genEqualsItsStages : Obligations.GenEqualsItsStages := by
  intro s tg hgen hdone
  obtain ⟨hd, hp, hk, A, hA, rfl⟩ := execGen_done (State.accept_done s .gen) hgen hdone
  obtain ⟨hint, hstr⟩ := truncDone_truncStage s A
  exact ⟨quantDone (s.accept .quant), hmacDone (hmacStage s) A, truncDone (truncStage s A), execQuant_ok _ hp, rfl, rfl,
    execHmac_hmacStage hk hA, rfl, execTrunc_truncStage hd A, rfl, hint, fun i => by rw [hstr]⟩

end Sys2Proof.Machine
end

section
/-! SUPPORT. Faults (60_exceptions.md): which fault a completion takes and what it leaves, and what changes a recorded fault. -/

namespace Sys2Proof.Machine

/-! ### The first fault that applies (R264 to R270) -/

/-- TRUNC's last check: it faults on a digest too long, or too short for its offset, and succeeds on every other (R270). -/
theorem execTrunc_digest_cases {s : State} (hd : s.digitsIllegal = false) (h0 : s.dlen ≠ 0) :
    ((64 < s.dlen.toNat ∨ s.dlen.toNat < (s.digest.read (s.dlen.toNat - 1)).toNat % 16 + 4) ∧
      exec .trunc s = .next (s.raiseFault .digestLength)) ∨
    ((s.dlen.toNat ≤ 64 ∧ (s.digest.read (s.dlen.toNat - 1)).toNat % 16 + 4 ≤ s.dlen.toNat) ∧
      exec .trunc s = .next (truncDone s)) := by
  rw [← toNat_dynOffset_digestBytes s h0]
  by_cases hs : 64 < s.dlen.toNat ∨ s.dlen.toNat < (dynOffset s.digestBytes).toNat + 4
  · exact .inl ⟨hs, execTrunc_short s hd h0 hs⟩
  · have h64 : s.dlen.toNat ≤ 64 := by omega
    have hfits : (dynOffset s.digestBytes).toNat + 4 ≤ s.dlen.toNat := by omega
    exact .inr ⟨⟨h64, hfits⟩, execTrunc_ok s hd h0 h64 hfits⟩

/-- Settles O30: each condition is the operand check of its command, and a negated one is a check passed. -/
theorem faultPriority : Obligations.FaultPriority := by
  intro s fault digitsBad periodBad keyBad shortDigest
  have digits_ok (h : ¬ digitsBad) : s.digitsIllegal = false := by rwa [← Bool.not_eq_true, digitsIllegal_iff]
  have period_ok (h : ¬ periodBad) : s.periodIllegal = false := (periodIllegal_eq_false s).2 h
  have key_ok (h : ¬ keyBad) : s.keyTooLong = false := (keyTooLong_eq_false s).2 (Nat.le_of_not_lt h)
  refine ⟨fun hd => ?digits, fun hp => ?quantPeriod, fun hd hp => ?genPeriod, fun hk => ?hmacKey,
    fun hd hp hk => ?genKey, fun hk ha => ?hmacAlg, fun hd hp hk ha => ?genAlg, fun hd h0 => ?empty,
    fun hd h0 hs => ?length⟩
  case digits =>
    have hill := (digitsIllegal_iff s).2 hd
    exact ⟨execGen_digits s hill, execTrunc_digits s hill⟩
  case quantPeriod => exact execQuant_period s ((periodIllegal_iff s).2 hp)
  case genPeriod => exact execGen_period s (digits_ok hd) ((periodIllegal_iff s).2 hp)
  case hmacKey => exact execHmac_key s ((keyTooLong_iff s).2 hk)
  case genKey => exact execGen_key s (digits_ok hd) (period_ok hp) ((keyTooLong_iff s).2 hk)
  case hmacAlg => exact execHmac_alg s (key_ok hk) ((Alg.ofCode_eq_none _).2 ha)
  case genAlg => exact execGen_alg s (digits_ok hd) (period_ok hp) (key_ok hk) ((Alg.ofCode_eq_none _).2 ha)
  case empty => exact execTrunc_empty s (digits_ok hd) h0
  case length => exact execTrunc_short s (digits_ok hd) h0 (by rwa [toNat_dynOffset_digestBytes s h0])

/-- Where HMAC sets DONE, it has left the digest of one of the algorithms (R148). -/
theorem execHmac_done {s t : State} (hs : s.done = false) (he : exec .hmac s = .next t) (ht : t.done = true) :
    ∃ A : Alg, t = hmacDone s A := by
  obtain ⟨f, rfl⟩ | hok : (∃ f : FaultCode, t = s.raiseFault f) ∨ ∃ A : Alg, t = hmacDone s A := by
    simpa using exec_next he
  · cases hs.symm.trans ht
  · exact hok

theorem toNat_hmacDone_dlen (s : State) (A : Alg) : (hmacDone s A).dlen.toNat = A.digestBytes := by cases A <;> rfl

/-- Settles O35: TRUNC's last check decides alone, an offset is at most 15, and a digest has 20 to 64 bytes. -/
theorem digestLengthExactly : Obligations.DigestLengthExactly := by
  refine ⟨fun s hlo hhi h0 => ?trunc, fun s t hs he ht => ?hmac⟩
  case trunc =>
    rcases execTrunc_digest_cases ((digitsIllegal_eq_false s).2 ⟨hlo, hhi⟩) h0 with ⟨hshort, hx⟩ | ⟨hfits, hx⟩
    · exact ⟨_, hx, fun _ => rfl, fun _ _ => by omega, fun _ _ => by omega⟩
    · exact ⟨_, hx, fun _ => by omega, fun _ _ => ⟨rfl, rfl, rfl⟩, fun _ _ => ⟨rfl, rfl, rfl⟩⟩
  case hmac =>
    obtain ⟨A, rfl⟩ := execHmac_done hs he ht
    have hbounds := digestBytes_bounds A
    rw [toNat_hmacDone_dlen]
    omega

/-! ### What a faulting completion leaves (R262, R263) -/

/-- A completion that leaves DONE at 0 is a fault of a command other than CLR. -/
theorem exec_notDone {s t : State} {i : Instr} (he : exec i s = .next t) (hd : t.done = false) :
    i ≠ .clr ∧ ∃ f : FaultCode, t = s.raiseFault f := by
  rcases exec_next he with hfault | ⟨-, A, rfl⟩ | ⟨-, A, rfl⟩ | ⟨-, rfl⟩ | ⟨-, rfl⟩ | ⟨-, rfl⟩
  case inl => exact hfault
  all_goals cases hd

/-- Settles O33: a fault leaves the outputs as acceptance cleared them. -/
theorem faultLeavesNoPartialResult : Obligations.FaultLeavesNoPartialResult := by
  intro s t i he hd
  obtain ⟨-, f, rfl⟩ := exec_notDone he hd
  refine ⟨rfl, s.accept_codeInt i, fun k => ?codeStr, s.accept_truncOffset i, s.accept_truncValue i, fun hi => ?chain⟩
  case codeStr => rw [State.raiseFault_codeStr, State.accept_codeStr, Memory.read_nil]
  case chain => simp [State.accept_bucket, State.accept_dlen, State.accept_digest, hi]

/-! ### What changes a recorded fault (R271, R275) -/

theorem off_of_regAt_status {off : Nat} (h : regAt off = .status) : off = 0x010 := by
  have hat := isAt_regAt off
  rwa [h] at hat

theorem cmdWrite_err (s : State) (v : Word) : (cmdWrite s v).err = s.err ∧ (cmdWrite s v).errcode = s.errcode := by
  rcases cmdWrite_cases s v with ⟨-, e⟩ | ⟨-, -, e⟩ | ⟨i, -, -, -, -, e⟩ | ⟨i, -, -, -, e⟩ <;> rw [e]
  case inr.inr.inr => exact ⟨s.accept_err i, s.accept_errcode i⟩
  all_goals exact ⟨rfl, rfl⟩

theorem storeLocked_err (s : State) (v : Word) (r : Reg) :
    (storeLocked s v r).err = s.err ∧ (storeLocked s v r).errcode = s.errcode := by
  cases r <;> exact ⟨rfl, rfl⟩

/-- A write of STATUS without bit 2 leaves a recorded fault (10_state.md R26). -/
theorem statusWrite_err {s : State} {v : Word} (hv : v.getLsbD 2 = false) :
    (statusWrite s v).err = s.err ∧ (statusWrite s v).errcode = s.errcode := by
  rw [statusWrite_eq, hv]
  exact ⟨Bool.and_true _, rfl⟩

theorem statusWrite_ackErr (s : State) {v : Word} (hv : v.getLsbD 2 = true) : (statusWrite s v).err = false := by
  rw [statusWrite_eq, hv]
  exact Bool.and_false _

/-- Of all register writes only a STATUS write with bit 2 touches ERR and ERRCODE, and it clears ERR. -/
theorem writeReg_err (s : State) (v : Word) (r : Reg) :
    ((writeReg s v r).err = s.err ∧ (writeReg s v r).errcode = s.errcode) ∨
      (r = .status ∧ v.getLsbD 2 = true ∧ (writeReg s v r).err = false) := by
  rcases writeReg_cases s v r with ⟨-, e⟩ | ⟨hr, e⟩ | ⟨-, e⟩ | ⟨-, -, e⟩ | ⟨-, -, e⟩ | ⟨-, -, -, -, e⟩ <;> rw [e]
  · exact .inl (cmdWrite_err s v)
  · cases hv : v.getLsbD 2
    · exact .inl (statusWrite_err hv)
    · exact .inr ⟨hr, rfl, statusWrite_ackErr s hv⟩
  · exact .inl ⟨rfl, rfl⟩
  · exact .inl ⟨rfl, rfl⟩
  · exact .inl (storeLocked_err s v r)
  · exact .inl ⟨rfl, rfl⟩

/-- What an event does to ERR and ERRCODE: an acknowledgement, a completion and reset can change them, nothing else. -/
theorem eventStep_err {s t : State} {e : Event} (ht : eventStep s e = .next t) :
    (t.err = s.err ∧ t.errcode = s.errcode) ∨
    (t.err = false ∧ ∃ v : Word, e = .host ⟨.write, 0x010, 4, v⟩ ∧ v.getLsbD 2 = true) ∨
    (e = .engine ∧ ∃ i : Instr, s.busy = true ∧ s.lastop = i.opcode ∧ exec i s = .next t) ∨
    (t.err = false ∧ e = .reset) := by
  cases e with
  | host a =>
    rcases hostAccess_next ht with ⟨r, rfl⟩ | ⟨off, v, rfl, rfl⟩
    · exact .inl ⟨rfl, rfl⟩
    · rcases writeReg_err s v (regAt off) with hkept | ⟨hr, hv, herr⟩
      · exact .inl hkept
      · obtain rfl := off_of_regAt_status hr
        exact .inr (.inl ⟨herr, v, rfl, hv⟩)
  | engine =>
    rcases engineStep_next ht with rfl | hexec
    · exact .inl ⟨rfl, rfl⟩
    · exact .inr (.inr (.inl ⟨rfl, hexec⟩))
  | reset =>
    cases ht
    exact .inr (.inr (.inr ⟨rfl, rfl⟩))

/-- CLR alone completes a recorded fault away (40_command_protocol.md R118, R120). -/
theorem exec_clearsErr {s t : State} {i : Instr} (he : exec i s = .next t) (hs : s.err = true) (ht : t.err = false) :
    i = .clr := by
  rcases exec_next he with ⟨-, f, rfl⟩ | ⟨-, A, rfl⟩ | ⟨-, A, rfl⟩ | ⟨-, rfl⟩ | ⟨-, rfl⟩ | ⟨hclr, -⟩
  case inl => cases ht
  case inr.inr.inr.inr.inr => exact hclr
  all_goals cases hs.symm.trans ht

/-- Settles O38: of the events that change ERR, a completion clears it only if it is that of CLR. -/
theorem faultLeftByAckClrReset : Obligations.FaultLeftByAckClrReset := by
  intro s t e he hs ht
  rcases eventStep_err he with ⟨herr, -⟩ | ⟨-, hack⟩ | ⟨hengine, i, hb, hl, hx⟩ | ⟨-, hreset⟩
  · cases ht.symm.trans (herr.trans hs)
  · exact .inl hack
  · exact .inr (.inl ⟨hengine, hb, hl.trans ((opcode_eq_five i).2 (exec_clearsErr hx hs ht))⟩)
  · exact .inr (.inr hreset)

/-- Settles O37: with a fault recorded only CLR can be in progress, so each event that changes ERRCODE clears ERR. -/
theorem errcodeNamesFirstFault : Obligations.ErrcodeNamesFirstFault := by
  intro s t e h he hs ht
  rcases eventStep_err he with ⟨-, hcode⟩ | ⟨herr, -⟩ | ⟨-, i, hb, hl, hx⟩ | ⟨herr, -⟩
  case inl => exact hcode
  case inr.inr.inl =>
    obtain rfl : i = .clr := (opcode_eq_five i).1 (hl ▸ h.flags.busyErr hb hs)
    cases execClr_next hx
    cases ht
  all_goals cases herr.symm.trans ht

end Sys2Proof.Machine
end

section
/-! SUPPORT. Reset, and what the lock of a busy block protects (70_reset_and_hazards.md): the one reset state, a locked write
ignored, the configuration, and the command in progress under any accesses of the host. -/

namespace Sys2Proof.Machine

/-- Settles O7: the reset step sets every field to its reset value and reads `pending` alone. -/
theorem resetYieldsResetState : Obligations.ResetYieldsResetState := fun s => ⟨resetStep s, rfl, rfl⟩

/-! ### Locked writes while busy (R310) -/

theorem writeReg_locked_busy {s : State} (hb : s.busy = true) (v : Word) {r : Reg} (hl : r.locked = true) :
    writeReg s v r = s.ignoreWrite := by
  rcases writeReg_cases s v r with ⟨rfl, -⟩ | ⟨rfl, -⟩ | ⟨rfl, -⟩ | ⟨-, -, e⟩ | ⟨-, hidle, -⟩ | ⟨hfree, -⟩
  case inr.inr.inr.inl => exact e
  case inr.inr.inr.inr.inl => cases hb.symm.trans hidle
  case inr.inr.inr.inr.inr => cases hl.symm.trans hfree
  all_goals cases hl

/-- Settles O15: the offsets listed are word offsets of the window at which the map has locked registers. -/
theorem lockedWriteIgnoredWhileBusy : Obligations.LockedWriteIgnoredWhileBusy := by
  intro s off v hb hoff
  have hlocked : (regAt off).locked = true := by
    rcases hoff with rfl | rfl | rfl | rfl | rfl | rfl | rfl | ⟨hlo, hhi, -⟩
    case inr.inr.inr.inr.inr.inr.inr => exact regAt_locked off hlo hhi
    all_goals rfl
  rw [hostAccess_write s off v (by omega) (by omega), writeReg_locked_busy hb v hlocked]
  rfl

/-! ### What changes the configuration (R306) -/

/-- CFG and PERIOD are the same in both states. -/
def SameConfig (s t : State) : Prop := t.alg = s.alg ∧ t.mode = s.mode ∧ t.digits = s.digits ∧ t.period = s.period

theorem SameConfig.refl (s : State) : SameConfig s s := ⟨rfl, rfl, rfl, rfl⟩

theorem cmdWrite_sameConfig (s : State) (v : Word) : SameConfig s (cmdWrite s v) := by
  rcases cmdWrite_cases s v with ⟨-, e⟩ | ⟨-, -, e⟩ | ⟨i, -, -, -, -, e⟩ | ⟨i, -, -, -, e⟩ <;> rw [e]
  case inr.inr.inr => exact ⟨s.accept_alg i, s.accept_mode i, s.accept_digits i, s.accept_period i⟩
  all_goals exact SameConfig.refl s

theorem storeLocked_sameConfig (s : State) (v : Word) (r : Reg) :
    SameConfig s (storeLocked s v r) ∨ r = .cfg ∨ r = .period := by
  cases r
  case cfg => exact .inr (.inl rfl)
  case period => exact .inr (.inr rfl)
  all_goals exact .inl ⟨rfl, rfl, rfl, rfl⟩

/-- A register write leaves the configuration alone unless it is an idle write of CFG or PERIOD. -/
theorem writeReg_sameConfig (s : State) (v : Word) (r : Reg) :
    SameConfig s (writeReg s v r) ∨ (r = .cfg ∨ r = .period) ∧ s.busy = false := by
  rcases writeReg_cases s v r with ⟨-, e⟩ | ⟨-, e⟩ | ⟨-, e⟩ | ⟨-, -, e⟩ | ⟨-, hb, e⟩ | ⟨-, -, -, -, e⟩ <;> rw [e]
  · exact .inl (cmdWrite_sameConfig s v)
  · rw [statusWrite_eq]
    exact .inl ⟨rfl, rfl, rfl, rfl⟩
  · exact .inl ⟨rfl, rfl, rfl, rfl⟩
  · exact .inl ⟨rfl, rfl, rfl, rfl⟩
  · exact (storeLocked_sameConfig s v r).imp_right fun hr => ⟨hr, hb⟩
  · exact .inl (SameConfig.refl s)

theorem off_of_regAt_config {off : Nat} (h : regAt off = .cfg ∨ regAt off = .period) : off = 0x004 ∨ off = 0x008 := by
  have hat := isAt_regAt off
  rcases h with h | h <;> rw [h] at hat
  · exact .inl hat
  · exact .inr hat

/-- No completion changes the configuration (40_command_protocol.md R118). -/
theorem exec_sameConfig {s t : State} {i : Instr} (he : exec i s = .next t) : SameConfig s t := by
  obtain ⟨halg, hmode, hdigits, hperiod, -⟩ := completionKeepsConfiguration i s t he
  exact ⟨halg, hmode, hdigits, hperiod⟩

/-- Settles O53, by the kind of event: an access, the engine's turn, reset. -/
theorem configurationChangesOnlyByHostReset : Obligations.ConfigurationChangesOnlyByHostReset := by
  intro s t e ht hchanged
  cases e with
  | host a =>
    rcases hostAccess_next ht with ⟨r, rfl⟩ | ⟨off, v, rfl, rfl⟩
    · exact absurd (SameConfig.refl s) hchanged
    · obtain ⟨hr, hb⟩ := (writeReg_sameConfig s v (regAt off)).resolve_left hchanged
      exact .inl ⟨off, v, rfl, off_of_regAt_config hr, hb⟩
  | engine =>
    rcases engineStep_next ht with rfl | ⟨i, -, -, he⟩
    · exact absurd (SameConfig.refl t) hchanged
    · exact absurd (exec_sameConfig he) hchanged
  | reset => exact .inr rfl

/-! ### Host accesses while busy (95_test_vectors.md section 10, property 5)

An access to a busy block changes flags, the interrupt enables and the answer at most. No command reads any of these, and the
invariant fixes ERR and ERRCODE after a success, so the completion leaves what it would have left. -/

/-- The state with the flags, the interrupt enables and the answer of `u`. -/
def State.withFlagsOf (s u : State) : State :=
  { s with
    done := u.done, err := u.err, errcode := u.errcode, rej := u.rej, rejcause := u.rejcause, wrign := u.wrign
    doneIe := u.doneIe, errIe := u.errIe, resp := u.resp }

theorem writeReg_eq_withFlagsOf {s : State} (hb : s.busy = true) (v : Word) (r : Reg) :
    writeReg s v r = s.withFlagsOf (writeReg s v r) := by
  rcases writeReg_cases s v r with ⟨-, e⟩ | ⟨-, e⟩ | ⟨-, e⟩ | ⟨-, -, e⟩ | ⟨-, hidle, -⟩ | ⟨-, -, -, -, e⟩
  case inl => rw [e, cmdWrite_busy hb]; rfl
  case inr.inl => rw [e, statusWrite_eq]; rfl
  case inr.inr.inr.inr.inl => cases hb.symm.trans hidle
  all_goals rw [e]; rfl

theorem hostAccess_eq_withFlagsOf {s t : State} {a : Access} (hb : s.busy = true) (ht : hostAccess s a = .next t) :
    t = s.withFlagsOf t := by
  rcases hostAccess_next ht with ⟨r, rfl⟩ | ⟨off, v, -, rfl⟩
  · rfl
  · exact congrArg (State.respond · .okWrite) (writeReg_eq_withFlagsOf hb v (regAt off))

/-- The pending accesses take a busy block, one step each, to a busy block with other flags at most. -/
theorem run_busyAccesses {s : State} {accesses : List Access} (h : Inv s) (hb : s.busy = true)
    (hin : ∀ a ∈ accesses, a.off < 4096) (hp : s.pending = accesses.map Event.host) :
    ∃ u : State, Sys2Proof.core.run (accesses.length + 1) s = Sys2Proof.core.run 1 u ∧ Inv u ∧
      u = ({ s with pending := [] } : State).withFlagsOf u := by
  induction accesses generalizing s with
  | nil => exact ⟨s, rfl, h, congrArg (fun p => { s with pending := p }) hp⟩
  | cons a accesses ih =>
    obtain ⟨hina, hinrest⟩ := List.forall_mem_cons.1 hin
    obtain ⟨s', hs'⟩ := hostAccess_eq_next { s with pending := accesses.map Event.host } hina
    obtain ⟨hb', -, hp'⟩ := hostAccess_whileBusy hs' hb
    obtain ⟨u, hrun, hinv, hu⟩ := ih ((h.withPending _).hostAccess hs') hb' hinrest hp'
    refine ⟨u, (run_next _ ((step_host s a _ hp).trans hs')).trans hrun, hinv, hu.trans ?_⟩
    rw [hostAccess_eq_withFlagsOf (s := { s with pending := accesses.map Event.host }) hb hs']
    rfl

/-- Under the invariant a busy block stands as the acceptance of its command left it (R114, R115). -/
theorem Inv.accept_eq_self {s : State} (h : Inv s) (hb : s.busy = true) {i : Instr} (hl : s.lastop = i.opcode) :
    s.accept i = s := by
  have hdone := h.flags.busyNotDone hb
  obtain ⟨hoffset, hvalue, hint, hstr⟩ := h.busyOutputs.truncOutputs hb
  have hchain := h.busyOutputs.chain hb
  rw [hl, Ne, opcode_eq_three] at hchain
  cases s
  cases i <;> simp_all [State.accept, State.startCommand, State.clearOutputsOf, State.clearOutputs, State.clearTruncOutputs]

/-- No command reads a flag, an interrupt enable or the answer (30_encoding.md R94). -/
theorem completeAlike_withFlagsOf (s u : State) (i : Instr) : CompleteAlike s (s.withFlagsOf u) i := by
  cases i with
  | gen => exact completeAlike_gen rfl rfl rfl (fun _ _ => rfl) rfl (fun _ => rfl) rfl
  | hmac => exact completeAlike_hmac rfl rfl rfl (fun _ _ => rfl)
  | trunc => exact completeAlike_trunc rfl rfl (fun _ _ => rfl)
  | quant => exact completeAlike_quant rfl (fun _ => rfl) rfl
  | clr => exact completeAlike_clr _ _

/-- Two completions that R117 calls the same agree in ERR and ERRCODE: of a success the invariant says both are 0. -/
theorem EndAlike.err_eq {t t' : State} {i : Instr} (h : EndAlike i t t') (hinv : FlagsWf t) (hinv' : FlagsWf t') :
    t.err = t'.err ∧ t.errcode = t'.errcode := by
  obtain ⟨⟨hdone, hfault⟩, -, -⟩ := h
  cases hd : t.done
  case false =>
    obtain ⟨he, he', hcode⟩ := hfault hd
    exact ⟨he.trans he'.symm, hcode⟩
  case true =>
    have he : t.err = false := by simpa [hd] using hinv.doneNotErr
    have he' : t'.err = false := by simpa [← hdone, hd] using hinv'.doneNotErr
    exact ⟨he.trans he'.symm, (hinv.errIffCode.1 he).trans (hinv'.errIffCode.1 he').symm⟩

/-- The command in progress is one of the five (R47 (d)). -/
theorem FlagsWf.exists_lastop {s : State} (h : FlagsWf s) (hb : s.busy = true) : ∃ i : Instr, s.lastop = i.opcode := by
  obtain ⟨i, hi⟩ := Option.ne_none_iff_exists'.1 (h.decodeOpcode_lastop hb)
  exact ⟨i, (decodeOpcode_eq_some _ _).1 hi⟩

/-- The states agree in everything but REJ, REJCAUSE, WRIGN, IEN and the port's answer. -/
def SameBesideFlags (t t' : State) : Prop :=
  t = { t' with
    rej := t.rej, rejcause := t.rejcause, wrign := t.wrign, doneIe := t.doneIe, errIe := t.errIe, resp := t.resp }

/-- The fields that neither `EndAlike` nor ERR and ERRCODE decide are left as both commands found them (R118). -/
theorem exec_sameBesideFlags_of_endAlike {s u t t' : State} {i : Instr} (hi : i ≠ .clr) (ht : exec i s = .next t)
    (ht' : exec i (s.withFlagsOf u) = .next t') (hend : EndAlike i t t')
    (herr : t.err = t'.err ∧ t.errcode = t'.errcode) : SameBesideFlags t t' := by
  obtain ⟨⟨hdone, -⟩, hcode, hchain⟩ := hend
  have hbusy : t.busy = t'.busy := (exec_busy ht).trans (exec_busy ht').symm
  have hchain' : t.bucket = t'.bucket ∧ t.dlen = t'.dlen ∧ t.digest = t'.digest := by
    by_cases htrunc : i = .trunc
    · subst htrunc
      obtain ⟨hb, hl, hd⟩ := execTrunc_keeps ht
      obtain ⟨hb', hl', hd'⟩ := execTrunc_keeps ht'
      exact ⟨hb.trans hb'.symm, hl.trans hl'.symm, hd.trans hd'.symm⟩
    · exact hchain htrunc
  have hkeeps := completionKeepsConfiguration i s t ht
  have hkeeps' := completionKeepsConfiguration i _ t' ht'
  cases t
  cases t'
  simp_all [SameBesideFlags, State.withFlagsOf]

/-- The completion from a busy block with other flags leaves what it leaves from the block itself. -/
theorem exec_sameBesideFlags {s u t t' : State} {i : Instr} (h : Inv s) (h' : Inv (s.withFlagsOf u)) (hb : s.busy = true)
    (hl : s.lastop = i.opcode) (ht : exec i s = .next t) (ht' : exec i (s.withFlagsOf u) = .next t') :
    SameBesideFlags t t' := by
  by_cases hi : i = .clr
  · subst hi
    cases execClr_next ht
    cases execClr_next ht'
    rfl
  · obtain ⟨t₁, t₁', ht₁, ht₁', hend⟩ := completeAlike_withFlagsOf s u i
    rw [h.accept_eq_self hb hl, ht] at ht₁
    rw [h'.accept_eq_self hb hl, ht'] at ht₁'
    cases ht₁
    cases ht₁'
    exact exec_sameBesideFlags_of_endAlike hi ht ht' hend
      (hend.err_eq (h.exec hb hl ht).flags (h'.exec hb hl ht').flags)

theorem run_one_busy {s t : State} {i : Instr} (hp : s.pending = []) (hb : s.busy = true) (hl : s.lastop = i.opcode)
    (ht : exec i s = .next t) : Sys2Proof.core.run 1 s = .next t := by
  refine run_next 0 ?_
  rw [step_nil s hp, engineStep_busy s i hb ((decodeOpcode_eq_some _ _).2 hl), ht]

/-- Settles O47: the accesses leave a busy block with other flags, and its completion leaves the same. -/
theorem busyHostAccessesChangeNoResult : Obligations.BusyHostAccessesChangeNoResult := by
  intro s accesses h hb hin hp
  obtain ⟨i, hl⟩ := h.flags.exists_lastop hb
  obtain ⟨u, hrun, hinv, hu⟩ := run_busyAccesses h hb hin hp
  rw [hu] at hrun hinv
  obtain ⟨t, ht⟩ := exec_eq_next i { s with pending := [] }
  obtain ⟨t', ht'⟩ := exec_eq_next i (({ s with pending := [] } : State).withFlagsOf u)
  exact ⟨t, t', run_one_busy rfl hb hl ht, hrun.trans (run_one_busy rfl hb hl ht'),
    exec_sameBesideFlags (h.withPending []) hinv hb hl ht ht'⟩

end Sys2Proof.Machine
end
